-- ==== Sys2Proof/Word.lean ====
section
/-! DEFINITION. The word types of the engine: register and port widths of spec/10_state.md R24, R27, R33
and the binary64 values of spec/00_scope.md R10, R18. -/

namespace Sys2Proof

/-- One byte of the sensor register space (R50). -/
abbrev Byte := BitVec 8

/-- A 16-bit coefficient register (R24). -/
abbrev Word16 := BitVec 16

/-- A 32-bit word: a command word, STATUS, `T_FINE`, the Q24.8 pressure (R27, R33, R154). -/
abbrev Word32 := BitVec 32

/-- A 64-bit word: ARG and RESULT (R33). -/
abbrev Word64 := BitVec 64

/-- A binary64 value, held as its 64-bit IEEE 754 interchange encoding (R10 row `FLT`, R18). -/
abbrev F64 := BitVec 64

end Sys2Proof
end

