-- ==== Sys2Proof/Config.lean ====
section
/-! DEFINITION. The implementation parameters of spec/00_scope.md R10 and the free values the spec leaves open.
The parameters that are plain data are the structure `Config`, which State carries (log 3); the two transcendental
functions and the free values are constants without a body, so that no proof sees what they are. -/

namespace Sys2Proof

/-- The "argument" rows of R10's table that are plain data: the sensor's register addresses and block lengths,
the identity constant and the dew-point sentinel (decisions D12, D19). -/
structure Config where
  /-- `ID_REG`: address of the device-identity register. -/
  idReg : Byte
  /-- `ID_VAL`: the known device-identity constant. -/
  idVal : Byte
  /-- `CAL1_ADDR`: address of the first calibration block. -/
  cal1Addr : Byte
  /-- `CAL1_LEN`: its length in bytes. -/
  cal1Len : Nat
  /-- `CAL2_ADDR`: address of the second calibration block. -/
  cal2Addr : Byte
  /-- `CAL2_LEN`: its length in bytes. -/
  cal2Len : Nat
  /-- `DATA_ADDR`: address of the raw data block. -/
  dataAddr : Byte
  /-- `DATA_LEN`: its length in bytes. -/
  dataLen : Nat
  /-- `DEW_SENTINEL`: the dew point's "unavailable" value. -/
  dewSentinel : F64
deriving DecidableEq, Repr

/-- The defaults of R10's table. A claim about the engine is stated for every configuration; these are the values
the reset state and the test vectors of spec/95_test_vectors.md take (DESIGN CHOICE, log 3). -/
def Config.default : Config where
  idReg := 0xD0
  idVal := 0x60
  cal1Addr := 0x88
  cal1Len := 26
  cal2Addr := 0xE1
  cal2Len := 7
  dataAddr := 0xF7
  dataLen := 8
  dewSentinel := 0xC071126666666666

/-- `LN` of R10 and R190: a total function of its binary64 operand alone, of which nothing is assumed (log 6). -/
opaque Config.LN : F64 → F64

/-- `POW` of R10 and R190: a total function of its binary64 operands alone, of which nothing is assumed (log 6). -/
opaque Config.POW : F64 → F64 → F64

/-- FREE VALUE. The byte of the sensor's `k`-th undetermined answer (R51: a draw under no law; log 2). -/
opaque Config.freeByte : Nat → Byte

/-- FREE VALUE. The encoding drawn for the `k`-th NaN result (R14, decision D40; log 5); `Machine.nanDraw`
keeps of it what R14 fixes, that it is a NaN. -/
opaque Config.freeNaN : Nat → F64

end Sys2Proof
end

