-- ==== Sys2Proof/Syntax.lean ====
section
/-! DEFINITION. The engine's commands: one constructor per row of spec/opcode_table.json (spec/30_encoding.md R83). -/

namespace Sys2Proof

/-- A host command. A command word has no register field and no immediate (R81, R84), so no constructor has an
argument: the one operand a command may take is in the ARG port (R85). -/
inductive Instr where
  /-- BEGIN: check the identity and load the Calibration Store (R110). -/
  | begin
  /-- SETTEMPCAL: set the user calibration offset (R137). -/
  | setTempCal
  /-- POLL: sample the sensor and refresh the snapshot (R215). -/
  | poll
  /-- GETTEMPC: the temperature in °C (R220). -/
  | getTempC
  /-- GETTEMPF: the temperature in °F (R221). -/
  | getTempF
  /-- GETHUM: the relative humidity (R222). -/
  | getHum
  /-- GETPRESS: the pressure in Pa (R223). -/
  | getPress
  /-- GETALT: the altitude in metres (R224). -/
  | getAlt
  /-- GETDEWPT: the dew point in °C (R225). -/
  | getDewPt
  /-- GETCAL: one coefficient (R113). -/
  | getCal
deriving DecidableEq, Repr

end Sys2Proof
end

