-- ==== Sys2Proof/WellFormed.lean ====
section
/-! DEFINITION. The static checks of the spec: which commands, command words, bus bursts and configurations are
well formed. An ill-formed configuration is refused by the machine (spec/20_memory.md R52). -/

namespace Sys2Proof

/-- Every command is well formed: the command word has no operand field (R81, R84). -/
def Instr.wf : Instr → Bool
  | .begin => true
  | .setTempCal => true
  | .poll => true
  | .getTempC => true
  | .getTempF => true
  | .getHum => true
  | .getPress => true
  | .getAlt => true
  | .getDewPt => true
  | .getCal => true

/-- The reserved field `RSV`, bits 31:8 of a command word, is 0 (R81). -/
def reservedClear (w : Word32) : Bool := w.extractLsb' 8 24 == 0

/-- A burst stays inside the 8-bit register space: `addr + n <= 256` (R52). -/
def burstInRange (addr : Byte) (n : Nat) : Bool := addr.toNat + n ≤ 256

/-- The block lengths hold the bytes the extractor and the raw sample assembly name: `b1[0..25]`, `b2[0..6]`,
`d[0..7]` (R100, R210). DEDUCED, log 4: the spec states the lengths 26, 7 and 8 and no effect for a shorter block. -/
def Config.lengthsCover (c : Config) : Bool := 26 ≤ c.cal1Len && 7 ≤ c.cal2Len && 8 ≤ c.dataLen

/-- A configuration is well formed when each of the four bursts of R56 is in range (R52) and the blocks hold the
bytes the rules name. -/
def Config.wf (c : Config) : Bool :=
  burstInRange c.idReg 1 && burstInRange c.cal1Addr c.cal1Len && burstInRange c.cal2Addr c.cal2Len &&
    burstInRange c.dataAddr c.dataLen && c.lengthsCover

end Sys2Proof
end

