-- ==== Sys2Proof/Decode.lean ====
section
/-! DEFINITION. Command decoding and encoding (spec/30_encoding.md R80 to R83, R88). The decoder is total on every
32-bit word and rejects by name; the encoder is written from the same opcode map. -/

namespace Sys2Proof

/-- Why a word names no command; either way the engine raises `E_ILLEGAL` (R82, R88). -/
inductive DecodeError where
  /-- `RSV != 0` (R82, second line). -/
  | reservedBits
  /-- an opcode outside the table of R83 (R82, third line). -/
  | unknownOpcode
deriving DecidableEq, Repr

/-- The opcode field `OPC`, bits 7:0 of a command word (R81). -/
def opcField (w : Word32) : Byte := w.extractLsb' 0 8

/-- The opcode map of R83, read from the opcode. -/
def instrOfOpcode (op : Byte) : Option Instr :=
  match op.toNat with
  | 0x01 => some .begin
  | 0x02 => some .setTempCal
  | 0x03 => some .poll
  | 0x10 => some .getTempC
  | 0x11 => some .getTempF
  | 0x12 => some .getHum
  | 0x13 => some .getPress
  | 0x14 => some .getAlt
  | 0x15 => some .getDewPt
  | 0x20 => some .getCal
  | _ => none

/-- R82's decode order after the FAULT check: `RSV` first, then the opcode map. -/
def decode (w : Word32) : Except DecodeError Instr :=
  if reservedClear w then
    match instrOfOpcode (opcField w) with
    | some i => .ok i
    | none => .error .unknownOpcode
  else .error .reservedBits

/-- The opcode map of R83, read from the mnemonic. -/
def Instr.opcode : Instr → Byte
  | .begin => 0x01
  | .setTempCal => 0x02
  | .poll => 0x03
  | .getTempC => 0x10
  | .getTempF => 0x11
  | .getHum => 0x12
  | .getPress => 0x13
  | .getAlt => 0x14
  | .getDewPt => 0x15
  | .getCal => 0x20

/-- The command word: `OPC` in bits 7:0 under an all-zero `RSV` (R81). -/
def encode (i : Instr) : Word32 := 0#24 ++ i.opcode

/-- What the decoder reads from an instruction whose bits are `w`, numbered as spec/opcode_table.json numbers them:
a command is one 32-bit word (R80), every bit above `nbits` being 0. -/
def decodeTableWord (nbits w : Nat) : Option Instr :=
  (decode (BitVec.ofNat 32 (w % 2 ^ nbits))).toOption

end Sys2Proof
end

