-- ==== Sys2Proof/Machine/State.lean ====
section
/-! DEFINITION. The state of the engine (spec/10_state.md), of the two agents beside it (spec/00_scope.md R9) and the
state after reset (R47, R270). Everything is plain data. -/

namespace Sys2Proof.Machine

/-- The 18 calibration coefficient registers with the widths of R24. `DIG_H4` and `DIG_H5` are the 12-bit two's
complement values of R23; whether a register is read signed or unsigned is said where it is read. -/
structure Calibration where
  digT1 : Word16
  digT2 : Word16
  digT3 : Word16
  digP1 : Word16
  digP2 : Word16
  digP3 : Word16
  digP4 : Word16
  digP5 : Word16
  digP6 : Word16
  digP7 : Word16
  digP8 : Word16
  digP9 : Word16
  digH1 : Byte
  digH2 : Word16
  digH3 : Byte
  digH4 : BitVec 12
  digH5 : BitVec 12
  digH6 : Byte
deriving DecidableEq, Repr

/-- The measurement snapshot, the source's "four cached outputs" (R31). -/
structure Snapshot where
  /-- `T_FINE`, 32-bit signed, 1/5120 °C per LSB (R27). -/
  tFine : Word32
  /-- `TEMP_C`, the offset of its POLL included (R28). -/
  tempC : F64
  /-- `PRESS_PA`; `0.0` when the pressure was unavailable (R29). -/
  pressPa : F64
  /-- `HUM`, clamped to [0, 100] (R30). -/
  hum : F64
deriving DecidableEq, Repr

/-- A bus transaction (R16), as R51 records it in the history. -/
inductive BusEvent where
  /-- `MemRead(addr, n)` and the `n` bytes it returned. -/
  | memRead (addr : Byte) (n : Nat) (bytes : List Byte)
  /-- `MemWrite(addr, 1, v)`: part of the bus contract, never issued by the engine (R57). -/
  | memWrite (addr : Byte) (v : Byte)
deriving DecidableEq, Repr

/-- One interaction of the host (R274), as it reaches the 32-byte port window (R60): an access has a byte offset, a
width in bits and, for a write, the data (a narrower port takes its low bits; log 11). -/
inductive HostMove where
  | write (offset width : Nat) (data : Word64)
  | read (offset width : Nat)
  /-- The reset event (R270). -/
  | reset
deriving DecidableEq, Repr

/-- What a host read got back (R274). -/
inductive Reply where
  | cmd (v : Word32)
  | arg (v : Word64)
  | result (v : Word64)
  | status (v : Word32)
deriving DecidableEq, Repr

/-- The fault codes of R240. Raising one is a NEXT state (R247), not an `Outcome.fault`. -/
inductive FaultCode where
  /-- `E_ILLEGAL` (R241). -/
  | illegal
  /-- `E_OPERAND` (R242). -/
  | operand
  /-- `E_NOCAL` (R243). -/
  | noCal
  /-- `E_REINIT` (R244). -/
  | reinit
  /-- `E_NOSAMPLE` (R245). -/
  | noSample
  /-- `E_ALT_P0_ZERO` (R246). -/
  | altP0Zero
deriving DecidableEq, Repr

/-- The state: the engine's registers, the bus history, and the plain data that stand for the host, the sensor and
the configuration. -/
structure State where
  /-- The parameters of R10, fixed for a run (R271; log 3). -/
  cfg : Config
  /-- `DIG_T1 .. DIG_H6`, all absent until a successful BEGIN writes all of them (R25, R26; log 7). -/
  cal : Option Calibration
  /-- `T_FINE`, `TEMP_C`, `PRESS_PA`, `HUM`, all absent until the first POLL (R31; log 7). -/
  snap : Option Snapshot
  /-- `CAL_OFFSET` (R32). -/
  calOffset : F64
  /-- `ARG` (R35). -/
  arg : Word64
  /-- `RESULT` (R36). -/
  result : Word64
  /-- `STATUS` (R37). -/
  status : Word32
  /-- Every bus transaction so far, oldest first (R51). -/
  busLog : List BusEvent
  /-- The bytes the sensor oracle answers with next, in the order of the transfers (R51; log 2). -/
  sensor : List Byte
  /-- How many free sensor bytes have been drawn (log 2). -/
  byteDraws : Nat
  /-- How many free NaN encodings have been drawn (R14, D40; log 5). -/
  nanDraws : Nat
  /-- The host's pending interactions, oldest first (R274; log 1). -/
  host : List HostMove
  /-- What the host's reads got back, oldest first (R274; log 9). -/
  replies : List Reply
deriving DecidableEq, Repr

/-- Why the model stops with a fault. The spec's own faults are next states (R247); these two are the model's, and
SAFE: they stand for the read of an absent register, which the STATUS gates rule out in every state a run reaches
(R26, R31; log 7). -/
inductive Fault where
  /-- POLL or GETCAL with `CAL_VALID = 1` and no coefficients. Safe. -/
  | absentCalibration
  /-- An accessor with `SAMPLE_VALID = 1` and no snapshot. Safe. -/
  | absentSnapshot
deriving DecidableEq, Repr

/-- Why the model has no meaning for a run. All are SAFE: they can only leave a true claim unproved. -/
inductive Refusal where
  /-- A command without a meaning in this model (none is left). Safe. -/
  | notModelled (mnemonic : String)
  /-- Raised by a step, BEGIN or POLL under an ill-formed configuration (R52, U17; log 4). Safe. -/
  | illFormedConfig
  /-- Raised by a host access at an offset or of a width that is no port's (R61, U16; log 11). Safe. -/
  | unmappedPortAccess
deriving DecidableEq, Repr

/-- The state right after reset (R47, R270): every engine register at R47's value, the parameters at R10's defaults
(log 3), no transaction, no pending host interaction and no determined sensor byte (log 14). -/
def State.reset : State where
  cfg := Config.default
  cal := none
  snap := none
  calOffset := 0
  arg := 0
  result := 0
  status := 0
  busLog := []
  sensor := []
  byteDraws := 0
  nanDraws := 0
  host := []
  replies := []

end Sys2Proof.Machine
end

