-- ==== Sys2Proof/Machine/Flags.lean ====
section
/-! DEFINITION. The fields of STATUS (spec/10_state.md R37 to R43) as accessors of the 32-bit register, and the fault
codes of spec/60_exceptions.md R240. A write of one field keeps every other bit. -/

namespace Sys2Proof.Machine

/-- `w` with bit `k` set to `b`. -/
def withBit (w : Word32) (k : Nat) (b : Bool) : Word32 :=
  if b then w ||| (1#32 <<< k) else w &&& ~~~(1#32 <<< k)

/-- `w` with bits `lo+7 : lo` set to `v`. -/
def withByte (w : Word32) (lo : Nat) (v : Byte) : Word32 :=
  (w &&& ~~~(0xFF#32 <<< lo)) ||| (v.setWidth 32 <<< lo)

/-- `STATUS.CAL_VALID`, bit 0 (R38). -/
def calValid (st : Word32) : Bool := st.getLsbD 0
/-- `STATUS.SAMPLE_VALID`, bit 1 (R39). -/
def sampleValid (st : Word32) : Bool := st.getLsbD 1
/-- `STATUS.P_UNAV`, bit 2 (R40). -/
def pUnav (st : Word32) : Bool := st.getLsbD 2
/-- `STATUS.DEW_UNAV`, bit 3 (R41). -/
def dewUnav (st : Word32) : Bool := st.getLsbD 3
/-- `STATUS.FAULT`, bit 7 (R42). -/
def faultBit (st : Word32) : Bool := st.getLsbD 7
/-- `STATUS.ECODE`, bits 15:8 (R42). -/
def ecode (st : Word32) : Byte := st.extractLsb' 8 8
/-- `STATUS.FAULT_OP`, bits 23:16 (R42). -/
def faultOp (st : Word32) : Byte := st.extractLsb' 16 8

def withCalValid (st : Word32) (b : Bool) : Word32 := withBit st 0 b
def withSampleValid (st : Word32) (b : Bool) : Word32 := withBit st 1 b
def withPUnav (st : Word32) (b : Bool) : Word32 := withBit st 2 b
def withDewUnav (st : Word32) (b : Bool) : Word32 := withBit st 3 b
def withFault (st : Word32) (b : Bool) : Word32 := withBit st 7 b
def withEcode (st : Word32) (v : Byte) : Word32 := withByte st 8 v
def withFaultOp (st : Word32) (v : Byte) : Word32 := withByte st 16 v

/-- The reserved bits of STATUS, 6:4 and 31:24 (R37, R43). -/
def reservedBits (st : Word32) : Word32 := st &&& 0xFF000070#32

/-- The reserved bits read 0 (R43). -/
def reservedZero (st : Word32) : Bool := reservedBits st == 0

/-- The code a fault writes to `STATUS.ECODE` (R240). -/
def FaultCode.code : FaultCode → Byte
  | .illegal => 0x01
  | .operand => 0x02
  | .noCal => 0x03
  | .reinit => 0x04
  | .noSample => 0x05
  | .altP0Zero => 0x06

/-- The three STATUS writes of a fault (R247): FAULT, ECODE and FAULT_OP, nothing else. -/
def faultStatus (st : Word32) (c : FaultCode) (op : Byte) : Word32 :=
  withFaultOp (withEcode (withFault st true) c.code) op

end Sys2Proof.Machine
end

