-- ==== Sys2Proof/Machine/Float64.lean ====
section
/-! DEFINITION. Binary64 arithmetic (spec/00_scope.md R14): IEEE 754, round to nearest, ties to even, one rounding per
operation, no traps and no exception flags (decision D6).
A finite binary64 is an integer multiple of 2^-1074, so every operation is computed exactly on that GRID of integers
(or as a quotient of two of them) and rounded once. R14 names IEEE 754 and does not restate it: the signed zeros, the
infinities, the subnormals and the overflow to infinity below are IEEE 754's (PRESUMED, log 10). -/

namespace Sys2Proof.Machine

/-- The sign bit. -/
def fNeg (x : F64) : Bool := x.getLsbD 63

/-- The magnitude bits: exponent and fraction, the encoding without its sign. -/
def fMag (x : F64) : Nat := x.toNat % 2 ^ 63

/-- The magnitude bits of infinity: exponent 2047, fraction 0. -/
def infMag : Nat := 2047 * 2 ^ 52

def isNaN (x : F64) : Bool := infMag < fMag x

def isInf (x : F64) : Bool := fMag x == infMag

/-- `+0.0` or `-0.0`. -/
def isZero (x : F64) : Bool := fMag x == 0

def isFinite (x : F64) : Bool := fMag x < infMag

/-- The binary64 with the given sign and magnitude bits. -/
def mkF64 (neg : Bool) (mag : Nat) : F64 := BitVec.ofNat 64 (if neg then 2 ^ 63 + mag else mag)

/-- The encoding with its sign flipped. -/
def fNegate (x : F64) : F64 := mkF64 (!fNeg x) (fMag x)

/-- The magnitude of a finite binary64 in units of 2^-1074: a subnormal is its fraction, a normal with exponent field
`e` is its 53-bit significand times `2^(e-1)`. -/
def gridMag (mag : Nat) : Nat :=
  if mag / 2 ^ 52 = 0 then mag % 2 ^ 52 else (2 ^ 52 + mag % 2 ^ 52) * 2 ^ (mag / 2 ^ 52 - 1)

/-- A finite binary64 in units of 2^-1074. -/
def fGrid (x : F64) : Int := if fNeg x then -(gridMag (fMag x) : Int) else gridMag (fMag x)

/-- The grid's exponent: the smallest positive binary64 is 2^-1074. -/
@[irreducible] def gridExp : Nat := 1074

/-- `1.0` in units of 2^-1074. -/
def gridOne : Nat := 2 ^ gridExp

/-- The integer nearest to `num / den`, ties to even (R14). -/
def roundNearestEven (num den : Nat) : Nat :=
  let q := num / den
  let r := num % den
  if 2 * r < den then q else if den < 2 * r then q + 1 else q + q % 2

/-- The magnitude bits of the binary64 nearest to `num / den` units of 2^-1074. The kept significand has at most 53
bits; rounding up to `2^53`, or past the largest finite value, carries into the exponent field. -/
def roundMag (num den : Nat) : Nat :=
  let shift := Nat.log2 (num / den) - 52
  min infMag (shift * 2 ^ 52 + roundNearestEven num (den * 2 ^ shift))

/-- `f64` of R14 on the rational `num / den`: the binary64 nearest to it, ties to even. -/
def f64 (num : Int) (den : Nat := 1) : F64 := mkF64 (num < 0) (roundMag (num.natAbs * gridOne) den)

/-- `i2f` of R14: an integer converted to binary64. -/
def i2f (n : Int) : F64 := f64 n

/-- `a +. b` (R14); `nan` is the encoding drawn for a NaN result (D40). A sum that is exactly zero is `+0.0`, unless
both operands are negative (zeros). -/
def fadd (nan a b : F64) : F64 :=
  if isNaN a || isNaN b then nan
  else if isInf a then (if isInf b && (fNeg a != fNeg b) then nan else a)
  else if isInf b then b
  else
    let z := fGrid a + fGrid b
    if z = 0 then mkF64 (fNeg a && fNeg b) 0 else mkF64 (z < 0) (roundMag z.natAbs 1)

/-- `a -. b` (R14). -/
def fsub (nan a b : F64) : F64 := fadd nan a (fNegate b)

/-- `a *. b` (R14). -/
def fmul (nan a b : F64) : F64 :=
  let neg := fNeg a != fNeg b
  if isNaN a || isNaN b then nan
  else if isInf a || isInf b then (if isZero a || isZero b then nan else mkF64 neg infMag)
  else mkF64 neg (roundMag (gridMag (fMag a) * gridMag (fMag b)) gridOne)

/-- `a /. b` (R14). Division by zero gives an infinity or NaN, as IEEE 754 defines it. -/
def fdiv (nan a b : F64) : F64 :=
  let neg := fNeg a != fNeg b
  if isNaN a || isNaN b then nan
  else if isInf a then (if isInf b then nan else mkF64 neg infMag)
  else if isInf b then mkF64 neg 0
  else if isZero b then (if isZero a then nan else mkF64 neg infMag)
  else mkF64 neg (roundMag (gridMag (fMag a) * gridOne) (gridMag (fMag b)))

/-- The order of the non-NaN binary64 values as integers; the two zeros are equal. -/
def fKey (x : F64) : Int := if fNeg x then -(fMag x : Int) else fMag x

/-- `a <. b` (R14): ordered, false when either operand is NaN. -/
def flt (a b : F64) : Bool := !isNaN a && !isNaN b && decide (fKey a < fKey b)

/-- `a >. b` (R14). -/
def fgt (a b : F64) : Bool := flt b a

/-- `a ==. b` (R14): ordered, and `-0.0 ==. +0.0`. -/
def feq (a b : F64) : Bool := !isNaN a && !isNaN b && decide (fKey a = fKey b)

/-- A NaN encoding made of a free 64-bit value: the value itself where it is a NaN, so that every NaN encoding can
appear (D40), and a quiet NaN otherwise. -/
def asNaN (w : F64) : F64 := if isNaN w then w else 0x7FF8000000000000

/-- The encoding drawn for the `k`-th NaN result (R14, D40; log 5). -/
def nanDraw (k : Nat) : F64 := asNaN (Config.freeNaN k)

end Sys2Proof.Machine
end

