-- ==== Sys2Proof/Machine/Ops.lean ====
section
/-! DEFINITION. The named operations the commands share: register updates, the bus primitive `MemRead`
(spec/00_scope.md R16), raising a fault (R17, spec/60_exceptions.md R247) and the state gates of R248. -/

namespace Sys2Proof.Machine

abbrev Result := Host.Outcome State Fault Refusal

/-! ### Register updates -/

def State.setResult (s : State) (v : Word64) : State := { s with result := v }
def State.setArg (s : State) (v : Word64) : State := { s with arg := v }
def State.setStatus (s : State) (v : Word32) : State := { s with status := v }
def State.setCalOffset (s : State) (v : F64) : State := { s with calOffset := v }
def State.setCal (s : State) (c : Calibration) : State := { s with cal := some c }
def State.setSnap (s : State) (m : Snapshot) : State := { s with snap := some m }
def State.setHost (s : State) (h : List HostMove) : State := { s with host := h }
def State.addReply (s : State) (r : Reply) : State := { s with replies := s.replies ++ [r] }

/-- Use up `n` NaN draws (log 5). -/
def State.drawNaNs (s : State) (n : Nat) : State := { s with nanDraws := s.nanDraws + n }

/-- The NaN encodings the operations of the coming command draw (R14, D40). -/
def State.nans (s : State) : Nat → F64 := fun k => nanDraw (s.nanDraws + k)

/-! ### The bus -/

/-- The next `n` bytes of the sensor oracle (R51): the determined ones first, then free values from index `k`. -/
def oracleBytes : Nat → List Byte → Nat → List Byte
  | 0, _, _ => []
  | n + 1, b :: rest, k => b :: oracleBytes n rest k
  | n + 1, [], k => Config.freeByte k :: oracleBytes n [] (k + 1)

/-- The bytes `MemRead(addr, n)` returns in this state; no law ties them to the address (R51). -/
def busBytes (s : State) (n : Nat) : List Byte := oracleBytes n s.sensor s.byteDraws

/-- The state after `MemRead(addr, n)`: the oracle has moved on and the event stands in the history (R51). No other
state changes (R63). -/
def busRead (s : State) (addr : Byte) (n : Nat) : State :=
  { s with
    sensor := s.sensor.drop n
    byteDraws := s.byteDraws + (n - s.sensor.length)
    busLog := s.busLog ++ [.memRead addr n (busBytes s n)] }

/-- Byte `k` of a burst. Every use reads inside its burst when the configuration is well formed (`Config.wf`). -/
def byteAt (b : List Byte) (k : Nat) : Byte := b.getD k 0

/-! ### Faults -/

/-- `raise Fault(code)` (R17, R247) by the command word whose low byte is `op`: exactly the three STATUS writes, and
none once a fault is recorded (R42). -/
def raiseFault (c : FaultCode) (op : Byte) (s : State) : State :=
  if faultBit s.status then s else s.setStatus (faultStatus s.status c op)

/-- POLL's and GETCAL's gate (R243): `E_NOCAL` unless `CAL_VALID = 1`; then the coefficients. -/
def withCalibration (i : Instr) (s : State) (k : Calibration → Result) : Result :=
  if calValid s.status then
    match s.cal with
    | some c => k c
    | none => .fault .absentCalibration
  else .next (raiseFault .noCal i.opcode s)

/-- The accessors' gate (R245): `E_NOSAMPLE` unless `SAMPLE_VALID = 1`; then the snapshot. -/
def withSnapshot (i : Instr) (s : State) (k : Snapshot → Result) : Result :=
  if sampleValid s.status then
    match s.snap with
    | some m => k m
    | none => .fault .absentSnapshot
  else .next (raiseFault .noSample i.opcode s)

/-- A command that reads the bus has no meaning under an ill-formed configuration (R52, U17; log 4). -/
def withBus (s : State) (t : State) : Result :=
  if s.cfg.wf then .next t else .refused .illFormedConfig

end Sys2Proof.Machine
end

