-- ==== Sys2Proof/Machine/Operands.lean ====
section
/-! DEFINITION. The operand forms of spec/30_encoding.md R85 to R87: a command reads ARG at the start of its step, as a
binary64 or as an unsigned index. There is no other operand (R84). -/

namespace Sys2Proof.Machine

/-- `bits64` of R18: the 64-bit interchange encoding of a binary64. -/
def bits64 (f : F64) : Word64 := f

/-- `fromBits64` of R18, its inverse. -/
def fromBits64 (w : Word64) : F64 := w

/-- A float operand: every 64-bit pattern is legal (R86). -/
def floatOperand (s : State) : F64 := fromBits64 s.arg

/-- An index operand: `zext_64(ARG)` (R87). -/
def indexOperand (s : State) : Nat := s.arg.toNat

end Sys2Proof.Machine
end

