-- ==== Sys2Proof/Machine/Calibration.lean ====
section
/-! DEFINITION. The Calibration Store (spec/40_calibration.md): the coefficient extractor DECODE_CAL, BEGIN and GETCAL. -/

namespace Sys2Proof.Machine

/-- `le16(b, k)` of R101: byte `k` is the low byte, byte `k+1` the high byte (R58). -/
def le16 (b : List Byte) (k : Nat) : Word16 := byteAt b (k + 1) ++ byteAt b k

/-- DECODE_CAL (R100, R102, R104): the coefficients from the bytes of block 1 and block 2. Byte `b1[24]` is ignored,
no value is validated (R105). The packed pair shares byte `b2[4]` (R104). -/
def decodeCal (b1 b2 : List Byte) : Calibration where
  digT1 := le16 b1 0
  digT2 := le16 b1 2
  digT3 := le16 b1 4
  digP1 := le16 b1 6
  digP2 := le16 b1 8
  digP3 := le16 b1 10
  digP4 := le16 b1 12
  digP5 := le16 b1 14
  digP6 := le16 b1 16
  digP7 := le16 b1 18
  digP8 := le16 b1 20
  digP9 := le16 b1 22
  digH1 := byteAt b1 25
  digH2 := le16 b2 0
  digH3 := byteAt b2 2
  digH4 := byteAt b2 3 ++ (byteAt b2 4).extractLsb' 0 4
  digH5 := byteAt b2 5 ++ (byteAt b2 4).extractLsb' 4 4
  digH6 := byteAt b2 6

/-- The integer a coefficient register holds, by its GETCAL index (R24): unsigned for `DIG_T1`, `DIG_P1`, `DIG_H1` and
`DIG_H3`, two's complement for the rest. Above 17 there is none. -/
def coefficient (c : Calibration) (i : Nat) : Option Int :=
  match i with
  | 0 => some c.digT1.toNat
  | 1 => some c.digT2.toInt
  | 2 => some c.digT3.toInt
  | 3 => some c.digP1.toNat
  | 4 => some c.digP2.toInt
  | 5 => some c.digP3.toInt
  | 6 => some c.digP4.toInt
  | 7 => some c.digP5.toInt
  | 8 => some c.digP6.toInt
  | 9 => some c.digP7.toInt
  | 10 => some c.digP8.toInt
  | 11 => some c.digP9.toInt
  | 12 => some c.digH1.toNat
  | 13 => some c.digH2.toInt
  | 14 => some c.digH3.toNat
  | 15 => some c.digH4.toInt
  | 16 => some c.digH5.toInt
  | 17 => some c.digH6.toInt
  | _ => none

/-- The identity byte BEGIN compares (R110, decision D23). -/
def identityByte (s : State) : Byte := byteAt (busBytes s 1) 0

/-- The state after BEGIN's identity read. -/
def afterIdentity (s : State) : State := busRead s s.cfg.idReg 1

/-- The bytes of the two calibration blocks, read after the identity in R110's order. -/
def calBytes1 (s : State) : List Byte := busBytes (afterIdentity s) s.cfg.cal1Len

def afterCal1 (s : State) : State := busRead (afterIdentity s) s.cfg.cal1Addr s.cfg.cal1Len

def calBytes2 (s : State) : List Byte := busBytes (afterCal1 s) s.cfg.cal2Len

def afterCal2 (s : State) : State := busRead (afterCal1 s) s.cfg.cal2Addr s.cfg.cal2Len

/-- BEGIN on a matching identity: all 18 registers, CAL_VALID and RESULT in one step (R25, R110). -/
def loadCalibration (s : State) : State :=
  let t := afterCal2 s
  ((t.setCal (decodeCal (calBytes1 s) (calBytes2 s))).setStatus (withCalValid t.status true)).setResult 1

/-- BEGIN after its gate: an identity mismatch writes RESULT only and reads no block (R111). -/
def identify (s : State) : State :=
  if identityByte s = s.cfg.idVal then loadCalibration s else (afterIdentity s).setResult 0

/-- BEGIN (R110, R244). -/
def execBegin (s : State) : Result :=
  if calValid s.status then .next (raiseFault .reinit Instr.begin.opcode s) else withBus s (identify s)

/-- GETCAL (R113, R242, R243): the coefficient as a 64-bit two's complement word. -/
def execGetCal (s : State) : Result :=
  withCalibration .getCal s fun c =>
    match coefficient c (indexOperand s) with
    | some v => .next (s.setResult (BitVec.ofInt 64 v))
    | none => .next (raiseFault .operand Instr.getCal.opcode s)

end Sys2Proof.Machine
end

