-- ==== Sys2Proof/Machine/Derived.lean ====
section
/-! DEFINITION. The derived quantities (spec/44_derived.md): altitude and dew point, with the transcendental functions
as arguments (R190), one rounding per operation in the order of R191 and R194. -/

namespace Sys2Proof.Machine

/-- `e = 1.0 /. 5.255` of R191, computed as a binary64 division (decision D31). -/
def altExponent (nan : F64) : F64 := fdiv nan (f64 1) (f64 5255 1000)

/-- ALT of R191. -/
def alt (pow : F64 → F64 → F64) (nan : Nat → F64) (p p0 : F64) : F64 :=
  fmul (nan 3) (f64 44330) (fsub (nan 2) (f64 1) (pow (fdiv (nan 0) p p0) (altExponent (nan 1))))

/-- How many operations of ALT could draw a NaN encoding. -/
def altOps : Nat := 4

/-- `b = 17.62` of R194. -/
def magnusB : F64 := f64 1762 100

/-- `c = 243.12` of R194. -/
def magnusC : F64 := f64 24312 100

/-- `g` of R194: `LN(RH /. 100.0) +. ((b *. T) /. (c +. T))`. -/
def dewGamma (ln : F64 → F64) (nan : Nat → F64) (t rh : F64) : F64 :=
  fadd (nan 4) (ln (fdiv (nan 0) rh (f64 100))) (fdiv (nan 3) (fmul (nan 1) magnusB t) (fadd (nan 2) magnusC t))

/-- `d` of R194: `(c *. g) /. (b -. g)`. -/
def dewValue (nan : Nat → F64) (g : F64) : F64 :=
  fdiv (nan 7) (fmul (nan 5) magnusC g) (fsub (nan 6) magnusB g)

/-- DEW of R194 and R196: the sentinel for a zero humidity, else the Magnus formula. -/
def dew (ln : F64 → F64) (sentinel : F64) (nan : Nat → F64) (t rh : F64) : F64 × Bool :=
  if feq rh (f64 0) then (sentinel, true) else (dewValue nan (dewGamma ln nan t rh), false)

/-- How many operations of DEW could draw a NaN encoding. -/
def dewOps : Nat := 8

end Sys2Proof.Machine
end

