-- ==== Sys2Proof/Machine/Humidity.lean ====
section
/-! DEFINITION. The humidity unit HCOMP (spec/43_humidity.md), in binary64 with one rounding per operation, in the order
and grouping of R171. `nan k` is the encoding a NaN result of the `k`-th operation would take (R14, D40). -/

namespace Sys2Proof.Machine

/-- CLAMP of R172: ordered comparisons, so a NaN passes through (R173). -/
def clamp (v : F64) : F64 :=
  if fgt v (f64 100) then f64 100 else if flt v (f64 0) then f64 0 else v

/-- `v` of R171's third line: the fine temperature about 76800. -/
def hcompTemp (nan : Nat → F64) (tFine : Word32) : F64 := fsub (nan 0) (i2f tFine.toInt) (f64 76800)

/-- `x3` of R171. -/
def hcompX3 (nan : Nat → F64) (v h3 : F64) : F64 :=
  fadd (nan 3) (f64 1) (fmul (nan 2) (fdiv (nan 1) h3 (f64 67108864)) v)

/-- `x6` of R171. -/
def hcompX6 (nan : Nat → F64) (v x3 h6 : F64) : F64 :=
  fadd (nan 7) (f64 1) (fmul (nan 6) (fmul (nan 5) (fdiv (nan 4) h6 (f64 67108864)) v) x3)

/-- `f` of R171. -/
def hcompF (nan : Nat → F64) (x6 h2 : F64) : F64 := fmul (nan 9) (fdiv (nan 8) h2 (f64 65536)) x6

/-- `o` of R171. -/
def hcompO (nan : Nat → F64) (v h4 h5 : F64) : F64 :=
  fadd (nan 13) (fmul (nan 10) h4 (f64 64)) (fmul (nan 12) (fdiv (nan 11) h5 (f64 16384)) v)

/-- The second `v` of R171: `(i2f(adc_H) -. o) *. f`. -/
def hcompRaw (nan : Nat → F64) (adcH : Word16) (o f : F64) : F64 :=
  fmul (nan 15) (fsub (nan 14) (i2f adcH.toNat) o) f

/-- The last `v` of R171: `v *. (1.0 -. ((h1 *. v) /. 524288.0))`. -/
def hcompCorrect (nan : Nat → F64) (v h1 : F64) : F64 :=
  fmul (nan 19) v (fsub (nan 18) (f64 1) (fdiv (nan 17) (fmul (nan 16) h1 v) (f64 524288)))

/-- The unclamped `v` of R171. -/
def hcompUnclamped (nan : Nat → F64) (adcH : Word16) (tFine : Word32) (c : Calibration) : F64 :=
  let v := hcompTemp nan tFine
  let x3 := hcompX3 nan v (i2f c.digH3.toNat)
  let x6 := hcompX6 nan v x3 (i2f c.digH6.toInt)
  let f := hcompF nan x6 (i2f c.digH2.toInt)
  let o := hcompO nan v (i2f c.digH4.toInt) (i2f c.digH5.toInt)
  hcompCorrect nan (hcompRaw nan adcH o f) (i2f c.digH1.toNat)

/-- HCOMP (R170, R171). -/
def hcomp (nan : Nat → F64) (adcH : Word16) (tFine : Word32) (c : Calibration) : F64 :=
  clamp (hcompUnclamped nan adcH tFine c)

/-- How many operations of HCOMP could draw a NaN encoding. -/
def hcompOps : Nat := 20

end Sys2Proof.Machine
end

