-- ==== Sys2Proof/Machine/Pressure.lean ====
section
/-! DEFINITION. The pressure unit PCOMP (spec/42_pressure.md), in 64-bit two's complement arithmetic (R13, R152). -/

namespace Sys2Proof.Machine

/-- `sext_32(t_fine) -_64 128000`, the first `v1` of R151. -/
def pcompOffset (tFine : Word32) : Word64 := tFine.signExtend 64 - 128000#64

/-- `v2` of R151 before the division. -/
def pcompV2 (v1 : Word64) (c : Calibration) : Word64 :=
  (v1 * v1) * c.digP6.signExtend 64 + ((v1 * c.digP5.signExtend 64) <<< 17) + (c.digP4.signExtend 64 <<< 35)

/-- The factor `2^47 +_64 v1` of R151's denominator, with the second `v1` there. -/
def pcompScale (v1 : Word64) (c : Calibration) : Word64 :=
  (1#64 <<< 47) + (((v1 * v1) * c.digP3.signExtend 64).sshiftRight 8 + ((v1 * c.digP2.signExtend 64) <<< 12))

/-- The denominator of R151 and R153. -/
def pcompDenominator (v1 : Word64) (c : Calibration) : Word64 :=
  (pcompScale v1 c * c.digP1.setWidth 64).sshiftRight 33

/-- The truncating division of R151: `(((p << 31) - v2) * 3125) / den` with `p = 1048576 - adc_P`. -/
def pcompQuotient (adcP : BitVec 20) (v2 den : Word64) : Word64 :=
  ((((1048576#64 - adcP.setWidth 64) <<< 31) - v2) * 3125#64).sdiv den

/-- The last correction of R151. -/
def pcompCorrect (p : Word64) (c : Calibration) : Word64 :=
  let v1 := ((c.digP9.signExtend 64 * p.sshiftRight 13) * p.sshiftRight 13).sshiftRight 25
  let v2 := (c.digP8.signExtend 64 * p).sshiftRight 19
  ((p + v1) + v2).sshiftRight 8 + (c.digP7.signExtend 64 <<< 4)

/-- PCOMP (R150, R151): the Q24.8 word, the low 32 bits of the final `p` (R154), and the "unavailable" bit (R153). -/
def pcomp (adcP : BitVec 20) (tFine : Word32) (c : Calibration) : Word32 × Bool :=
  let v1 := pcompOffset tFine
  let den := pcompDenominator v1 c
  if den = 0 then (0, true)
  else ((pcompCorrect (pcompQuotient adcP (pcompV2 v1 c) den) c).setWidth 32, false)

/-- `PRESS_PA` of R156: `i2f(pq) /. 256.0`. -/
def pascals (nan : F64) (pq : Word32) : F64 := fdiv nan (i2f pq.toNat) (f64 256)

end Sys2Proof.Machine
end

