-- ==== Sys2Proof/Machine/Temperature.lean ====
section
/-! DEFINITION. The temperature unit (spec/41_temperature.md): TCOMP, the Celsius value with the user offset, the
Fahrenheit conversion and SETTEMPCAL. The operators of R13 are two's complement: `+ - *` wrap, `<<<` wraps and
`sshiftRight` rounds toward minus infinity. -/

namespace Sys2Proof.Machine

/-- TCOMP's linear term (R131). -/
def tcompLinear (adcT : BitVec 20) (t1 t2 : Word16) : Word32 :=
  (((adcT.setWidth 32).sshiftRight 3 - ((t1.setWidth 32) <<< 1)) * t2.signExtend 32).sshiftRight 11

/-- TCOMP's quadratic term (R131). -/
def tcompQuadratic (adcT : BitVec 20) (t1 t3 : Word16) : Word32 :=
  let d : Word32 := (adcT.setWidth 32).sshiftRight 4 - t1.setWidth 32
  (((d * d).sshiftRight 12) * t3.signExtend 32).sshiftRight 14

/-- TCOMP, the fine temperature (R130, R131), in 32-bit wrap-around arithmetic (R132). -/
def tcomp (adcT : BitVec 20) (c : Calibration) : Word32 :=
  tcompLinear adcT c.digT1 c.digT2 + tcompQuadratic adcT c.digT1 c.digT3

/-- `T0` of R133: one binary64 division by 5120.0. -/
def celsius (nan : F64) (tFine : Word32) : F64 := fdiv nan (i2f tFine.toInt) (f64 5120)

/-- `TEMP_C` of R134: `T0 +. CAL_OFFSET`, one addition. -/
def tempWithOffset (nan : Nat → F64) (tFine : Word32) (offset : F64) : F64 :=
  fadd (nan 1) (celsius (nan 0) tFine) offset

/-- `TO_F` of R136: three operations in this order. -/
def toF (nan : Nat → F64) (c : F64) : F64 :=
  fadd (nan 2) (fdiv (nan 1) (fmul (nan 0) c (f64 9)) (f64 5)) (f64 32)

/-- SETTEMPCAL (R137): every pattern is stored bit for bit, and there is no gate. -/
def execSetTempCal (s : State) : Result := .next (s.setCalOffset (floatOperand s))

end Sys2Proof.Machine
end

