-- ==== Sys2Proof/Machine/Poll.lean ====
section
/-! DEFINITION. The poll sequencer and the snapshot accessors (spec/45_poll_access.md). -/

namespace Sys2Proof.Machine

/-- `adc_P` of R212: `(d[0] : d[1] : d[2])[23:4]`, most significant byte first (R59). -/
def adcP (d : List Byte) : BitVec 20 := (byteAt d 0 ++ byteAt d 1 ++ byteAt d 2).extractLsb' 4 20

/-- `adc_T` of R212: `(d[3] : d[4] : d[5])[23:4]`. -/
def adcT (d : List Byte) : BitVec 20 := (byteAt d 3 ++ byteAt d 4 ++ byteAt d 5).extractLsb' 4 20

/-- `adc_H` of R212: `d[6] : d[7]`. -/
def adcH (d : List Byte) : Word16 := byteAt d 6 ++ byteAt d 7

/-- The snapshot of R215 from the raw data bytes: TCOMP first, then PCOMP and HCOMP on its result (R213, R214). -/
def compensate (nan : Nat → F64) (d : List Byte) (c : Calibration) (offset : F64) : Snapshot :=
  let tf := tcomp (adcT d) c
  { tFine := tf
    tempC := tempWithOffset nan tf offset
    pressPa := pascals (nan 2) (pcomp (adcP d) tf c).1
    hum := hcomp (fun k => nan (3 + k)) (adcH d) tf c }

/-- `unav` of R215. -/
def pressureUnavailable (d : List Byte) (c : Calibration) : Bool := (pcomp (adcP d) (tcomp (adcT d) c) c).2

/-- How many operations of POLL could draw a NaN encoding: two for TEMP_C, one for PRESS_PA, HCOMP's. -/
def pollOps : Nat := 3 + hcompOps

/-- The raw data burst of R210. -/
def rawBytes (s : State) : List Byte := busBytes s s.cfg.dataLen

/-- POLL after its gate: one burst, the four snapshot registers and both STATUS bits in one step (R215, R216). -/
def sample (c : Calibration) (s : State) : State :=
  let d := rawBytes s
  let t := busRead s s.cfg.dataAddr s.cfg.dataLen
  ((t.setSnap (compensate s.nans d c s.calOffset)).setStatus
    (withSampleValid (withPUnav t.status (pressureUnavailable d c)) true)).drawNaNs pollOps

/-- POLL (R215, R243). -/
def execPoll (s : State) : Result := withCalibration .poll s fun c => withBus s (sample c s)

/-- GETTEMPC (R220). -/
def execGetTempC (s : State) : Result :=
  withSnapshot .getTempC s fun m => .next (s.setResult (bits64 m.tempC))

/-- GETTEMPF (R221): evaluated at each call, not cached. -/
def execGetTempF (s : State) : Result :=
  withSnapshot .getTempF s fun m => .next ((s.setResult (bits64 (toF s.nans m.tempC))).drawNaNs 3)

/-- GETHUM (R222). -/
def execGetHum (s : State) : Result :=
  withSnapshot .getHum s fun m => .next (s.setResult (bits64 m.hum))

/-- GETPRESS (R223). -/
def execGetPress (s : State) : Result :=
  withSnapshot .getPress s fun m => .next (s.setResult (bits64 m.pressPa))

/-- GETALT (R224): a zero `P0` faults and ALT is not evaluated (R192, R246). -/
def execGetAlt (s : State) : Result :=
  withSnapshot .getAlt s fun m =>
    if feq (floatOperand s) (f64 0) then .next (raiseFault .altP0Zero Instr.getAlt.opcode s)
    else .next ((s.setResult (bits64 (alt Config.POW s.nans m.pressPa (floatOperand s)))).drawNaNs altOps)

/-- The pair DEW returns for this state's snapshot (R194, R195). -/
def dewOf (s : State) (m : Snapshot) : F64 × Bool := dew Config.LN s.cfg.dewSentinel s.nans m.tempC m.hum

/-- GETDEWPT (R225): RESULT and DEW_UNAV. -/
def execGetDewPt (s : State) : Result :=
  withSnapshot .getDewPt s fun m =>
    .next (((s.setResult (bits64 (dewOf s m).1)).setStatus (withDewUnav s.status (dewOf s m).2)).drawNaNs dewOps)

end Sys2Proof.Machine
end

