-- ==== Sys2Proof/Machine/Dispatch.lean ====
section
/-! DEFINITION. One arm per command: the meaning it runs. -/

namespace Sys2Proof.Machine

def exec (i : Instr) (s : State) : Host.Outcome State Fault Refusal :=
  match i with
  | .begin => Sys2Proof.Machine.execBegin s
  | .setTempCal => Sys2Proof.Machine.execSetTempCal s
  | .poll => Sys2Proof.Machine.execPoll s
  | .getTempC => Sys2Proof.Machine.execGetTempC s
  | .getTempF => Sys2Proof.Machine.execGetTempF s
  | .getHum => Sys2Proof.Machine.execGetHum s
  | .getPress => Sys2Proof.Machine.execGetPress s
  | .getAlt => Sys2Proof.Machine.execGetAlt s
  | .getDewPt => Sys2Proof.Machine.execGetDewPt s
  | .getCal => Sys2Proof.Machine.execGetCal s

end Sys2Proof.Machine
end

