-- ==== Sys2Proof/Machine/Port.lean ====
section
/-! DEFINITION. The host port window (spec/10_state.md R33, spec/20_memory.md R60, R61), the issue of a command
(spec/30_encoding.md R82), the reset event (spec/70_reset_and_hazards.md R270) and one host interaction (R274). -/

namespace Sys2Proof.Machine

/-- The four port registers (R33). -/
inductive Port where
  | cmd
  | arg
  | result
  | status
deriving DecidableEq, Repr

/-- The port at a byte offset, accessed at its whole width in bits (R33, R60); any other offset or width is outside
the model (R61). -/
def portAt (offset width : Nat) : Option Port :=
  match offset, width with
  | 0x00, 32 => some .cmd
  | 0x08, 64 => some .arg
  | 0x10, 64 => some .result
  | 0x18, 32 => some .status
  | _, _ => none

/-- R82: a word written to CMD. While a fault is recorded it is ignored (R250); a word that names no command raises
`E_ILLEGAL` with the word's low byte (R88, R247); any other word is its command. -/
def issue (w : Word32) (s : State) : Result :=
  if faultBit s.status then .next s
  else
    match decode w with
    | .ok i => exec i s
    | .error _ => .next (raiseFault .illegal (opcField w) s)

/-- A host write (R274): ARG is stored, CMD starts a command, RESULT and STATUS ignore it (R44). -/
def hostWrite (p : Port) (data : Word64) (s : State) : Result :=
  match p with
  | .cmd => issue (data.setWidth 32) s
  | .arg => .next (s.setArg data)
  | .result => .next s
  | .status => .next s

/-- What a host read gets back (R274): CMD reads 0 (R44). -/
def hostRead (p : Port) (s : State) : Reply :=
  match p with
  | .cmd => .cmd 0
  | .arg => .arg s.arg
  | .result => .result s.result
  | .status => .status s.status

/-- The reset event (R270): every engine register takes its value of R47; the configuration, the sensor, the history
and the host's side are outside the engine and stay (R271; log 12). -/
def resetEngine (s : State) : State :=
  { s with
    cal := State.reset.cal
    snap := State.reset.snap
    calOffset := State.reset.calOffset
    arg := State.reset.arg
    result := State.reset.result
    status := State.reset.status }

/-- One host interaction (R274). -/
def hostMove (m : HostMove) (s : State) : Result :=
  match m with
  | .reset => .next (resetEngine s)
  | .write offset width data =>
    match portAt offset width with
    | some p => hostWrite p data s
    | none => .refused .unmappedPortAccess
  | .read offset width =>
    match portAt offset width with
    | some p => .next (s.addReply (hostRead p s))
    | none => .refused .unmappedPortAccess

/-- The next pending host interaction, if any: with none, the engine does nothing (R272). An ill-formed configuration
is refused (R52). -/
def hostStep (s : State) : Result :=
  if s.cfg.wf then
    match s.host with
    | [] => .next s
    | m :: rest => hostMove m (s.setHost rest)
  else .refused .illFormedConfig

/-- The host interaction that writes `w` to CMD (R274). -/
def cmdWrite (w : Word32) : HostMove := .write 0x00 32 (w.setWidth 64)

end Sys2Proof.Machine
end

