-- ==== Sys2Proof/Machine/Step.lean ====
section
/-! DEFINITION. One step of the machine: the host's next interaction, the engine's command included (spec/00_scope.md
R8, spec/70_reset_and_hazards.md R274). -/

namespace Sys2Proof.Machine

/-- One step. -/
def step (s : State) : Host.Outcome State Fault Refusal := hostStep s

/-- The state whose next step writes the given command word to CMD. The engine fetches nothing (R21): a program comes to
run as host interactions given from outside, and this puts one of them first (log 1). -/
def State.withFetchWord (s : State) (nbits w : Nat) : State :=
  s.setHost (cmdWrite (BitVec.ofNat 32 (w % 2 ^ nbits)) :: s.host)

end Sys2Proof.Machine
end

