-- ==== Sys2Proof/Machine/Assembly.lean ====
section
/-! DEFINITION. The host-level assembly of spec/30_encoding.md: the four statements of R89 as host interactions and the
pseudo-instructions of R90 as lists of them. They are host programs, not commands of the engine. -/

namespace Sys2Proof.Machine

/-- `WRARG <imm64>` (R89). -/
def wrArg (x : Word64) : HostMove := .write 0x08 64 x

/-- `CMD <mnemonic>` (R89); a raw word is `cmdWrite`. -/
def cmd (i : Instr) : HostMove := cmdWrite (encode i)

/-- `RDRES` (R89). -/
def rdRes : HostMove := .read 0x10 64

/-- `RDSTAT` (R89). -/
def rdStat : HostMove := .read 0x18 32

/-- The expansions of R90. A decimal operand is `bits64 (f64 num den)`. -/
def callBegin : List HostMove := [cmd .begin, rdRes]
def callSetTempCal (x : F64) : List HostMove := [wrArg (bits64 x), cmd .setTempCal]
def callPoll : List HostMove := [cmd .poll]
def callGetTempC : List HostMove := [cmd .getTempC, rdRes]
def callGetTempF : List HostMove := [cmd .getTempF, rdRes]
def callGetHumidity : List HostMove := [cmd .getHum, rdRes]
def callGetPressure : List HostMove := [cmd .getPress, rdRes]
def callGetAltitude (p0 : F64) : List HostMove := [wrArg (bits64 p0), cmd .getAlt, rdRes]
def callGetDewPoint : List HostMove := [cmd .getDewPt, rdRes]
def callGetCal (i : Word64) : List HostMove := [wrArg i, cmd .getCal, rdRes]

end Sys2Proof.Machine
end

