-- ==== Sys2Proof/Safety.lean ====
section
/-! DEFINITION. What a good state and a good run are, in the terms the claims use. -/

namespace Sys2Proof.Machine

/-- STATUS agrees with the registers it speaks of: reserved bits 0 (R43); CAL_VALID and SAMPLE_VALID say exactly when the
coefficients and the snapshot are there (R26, R31), and a snapshot needs a calibration (R243); P_UNAV and DEW_UNAV come
from a POLL and from a GETDEWPT after one (R40, R41); a fault record is all zero, or a code 1 to 6 (R42, R240). -/
abbrev StatusInv (s : State) : Prop :=
  reservedZero s.status = true ∧
  calValid s.status = s.cal.isSome ∧
  sampleValid s.status = s.snap.isSome ∧
  (sampleValid s.status = true → calValid s.status = true) ∧
  (pUnav s.status = true → sampleValid s.status = true) ∧
  (dewUnav s.status = true → sampleValid s.status = true) ∧
  (faultBit s.status = false → ecode s.status = 0 ∧ faultOp s.status = 0) ∧
  (faultBit s.status = true → 1 ≤ (ecode s.status).toNat ∧ (ecode s.status).toNat ≤ 6)

/-- One of the four bursts of R56, at its configured address and length, with as many bytes as it asked for (R51). -/
def allowedEvent (c : Config) (e : BusEvent) : Bool :=
  match e with
  | .memRead a n bytes =>
    bytes.length == n &&
      ((a == c.idReg && n == 1) || (a == c.cal1Addr && n == c.cal1Len) ||
        (a == c.cal2Addr && n == c.cal2Len) || (a == c.dataAddr && n == c.dataLen))
  | .memWrite _ _ => false

/-- The history holds nothing but those bursts, so no write of the sensor (R56, R57). -/
abbrev BusInv (s : State) : Prop := s.busLog.all (allowedEvent s.cfg) = true

/-- `t` is `s` with exactly the writes of a fault (R247): FAULT set, ECODE and FAULT_OP recorded, every other register and
every other STATUS bit as before. -/
abbrev RecordsFault (s t : State) (code op : Byte) : Prop :=
  t = { s with status := t.status } ∧
  faultBit t.status = true ∧ ecode t.status = code ∧ faultOp t.status = op ∧
  calValid t.status = calValid s.status ∧ sampleValid t.status = sampleValid s.status ∧
  pUnav t.status = pUnav s.status ∧ dewUnav t.status = dewUnav s.status ∧
  reservedBits t.status = reservedBits s.status

/-- A binary64 in [0, 100]; both zeros are (R172, R173). -/
def inPercentRange (x : F64) : Bool := !isNaN x && decide (0 ≤ fKey x) && decide (fKey x ≤ fKey (f64 100))

/-- A non-negative finite multiple of 1/256 below 2^24 (R156): `pq / 256` for a 32-bit `pq`. -/
def isPressure (x : F64) : Bool :=
  !fNeg x && isFinite x && (gridMag (fMag x) * 256 % gridOne == 0) && decide (gridMag (fMag x) * 256 < 2 ^ 32 * gridOne)

/-- The snapshot's outputs are in the ranges the spec promises (R156, R173), and an unavailable pressure is the
sentinel (R40). -/
abbrev SnapshotInv (s : State) : Prop :=
  ∀ m ∈ s.snap, inPercentRange m.hum = true ∧ isPressure m.pressPa = true ∧
    (pUnav s.status = true → m.pressPa = 0)

/-- The end of a run (R276): the host has no interaction left. It ends normally only if no fault is recorded. -/
abbrev EndsNormally (s : State) : Prop := s.host = [] ∧ faultBit s.status = false

/-- The six snapshot accessors (R218). -/
def isAccessor : Instr → Bool
  | .getTempC => true
  | .getTempF => true
  | .getHum => true
  | .getPress => true
  | .getAlt => true
  | .getDewPt => true
  | .begin => false
  | .setTempCal => false
  | .poll => false
  | .getCal => false

/-- A host interaction inside the port window: a reset, or a whole-register access (R61). -/
def moveMapped : HostMove → Bool
  | .write offset width _ => (portAt offset width).isSome
  | .read offset width => (portAt offset width).isSome
  | .reset => true

/-- A host interaction that neither resets the engine nor issues a POLL: what may stand between two executions of an
accessor (R219). -/
def keepsSnapshot : HostMove → Bool
  | .write offset width x => !(offset == 0x00 && width == 32 && x.setWidth 32 == encode .poll)
  | .read _ _ => true
  | .reset => false

/-- Twice the magnitude from which a result overflows to infinity, in units of 2^-1074: the largest finite binary64 and
`2^1024`, whose encoding would be infinity's, added (IEEE 754, PRESUMED, log 10). -/
def overflowTwice : Nat := gridMag (infMag - 1) + gridMag infMag

/-- A run of a host program (R276): a reset state under a configuration and a sensor oracle, then the host's
interactions, one a step. -/
def startOf (cfg : Config) (sensor : List Byte) (program : List HostMove) : State :=
  { State.reset with cfg := cfg, sensor := sensor, host := program }

end Sys2Proof.Machine
end

