-- ==== Sys2Proof/Certificates/Slice0/Obligations.lean ====
section
/-! DEFINITION. The statements for the provers. Each docstring names the rule of the spec it formalises; where a clause rests
on the model's own choice, it names the log entry. -/

open Sys2Proof Sys2Proof.Machine Host.Outcome

/-! ### Encoding and the host port -/

/-- The ten command words of R83, written out from its table, decode to their commands. -/
def Obligations.OpcodeMapWordsDecode : Prop :=
  decode 0x00000001 = .ok .begin ∧ decode 0x00000002 = .ok .setTempCal ∧ decode 0x00000003 = .ok .poll ∧
  decode 0x00000010 = .ok .getTempC ∧ decode 0x00000011 = .ok .getTempF ∧ decode 0x00000012 = .ok .getHum ∧
  decode 0x00000013 = .ok .getPress ∧ decode 0x00000014 = .ok .getAlt ∧ decode 0x00000015 = .ok .getDewPt ∧
  decode 0x00000020 = .ok .getCal

/-- R80 to R83: a command and its word determine each other, over all 32-bit words. -/
def Obligations.EachCommandHasOneWord : Prop :=
  ∀ (w : Word32) (i : Instr), decode w = .ok i ↔ w = encode i

/-- R88: every word outside the opcode map is illegal and raises `E_ILLEGAL` with its low byte in FAULT_OP; every other
word is a command. -/
def Obligations.IllegalWordsRaise : Prop :=
  ∀ (s : State) (w : Word32) (rest : List HostMove),
    s.cfg.wf = true → s.host = cmdWrite w :: rest → faultBit s.status = false →
    let illegal := 0x100 ≤ w.toNat ∨ w.toNat = 0 ∨ (0x04 ≤ w.toNat ∧ w.toNat ≤ 0x0F) ∨
      (0x16 ≤ w.toNat ∧ w.toNat ≤ 0x1F) ∨ (0x21 ≤ w.toNat ∧ w.toNat ≤ 0xFF)
    (illegal → ∃ t, step s = next t ∧ RecordsFault { s with host := rest } t 0x01 (w.extractLsb' 0 8)) ∧
    (¬illegal → ∃ i, decode w = .ok i)

/-- A step whose host interaction writes a command's word to CMD runs that command (R82, R274), with the interaction
taken off the host's list. -/
def Obligations.StepRunsTheDecodedCommand : Prop :=
  ∀ (s : State) (w : Word32) (rest : List HostMove) (i : Instr),
    s.cfg.wf = true → s.host = cmdWrite w :: rest → faultBit s.status = false → decode w = .ok i →
    step s = exec i { s with host := rest }

/-- The model's choice (log 1): the word placed by `withFetchWord` is the next command to run. -/
def Obligations.PlacedCommandRunsNext : Prop :=
  ∀ (s : State) (nbits w : Nat) (i : Instr),
    s.cfg.wf = true → faultBit s.status = false → decodeTableWord nbits w = some i →
    step (s.withFetchWord nbits w) = exec i s

/-- R250: once FAULT is 1, every CMD write is ignored and changes nothing; reads of RESULT and STATUS and reads and writes
of ARG still work; no interaction but reset leaves the faulted state; it is never a normal end. -/
def Obligations.FaultedEngineIgnoresCommands : Prop :=
  ∀ (s : State) (rest : List HostMove), s.cfg.wf = true → faultBit s.status = true →
    (∀ w, s.host = cmdWrite w :: rest → step s = next { s with host := rest }) ∧
    (s.host = .read 0x10 64 :: rest →
      step s = next { s with host := rest, replies := s.replies ++ [.result s.result] }) ∧
    (s.host = .read 0x18 32 :: rest →
      step s = next { s with host := rest, replies := s.replies ++ [.status s.status] }) ∧
    (s.host = .read 0x08 64 :: rest →
      step s = next { s with host := rest, replies := s.replies ++ [.arg s.arg] }) ∧
    (∀ x, s.host = .write 0x08 64 x :: rest → step s = next { s with host := rest, arg := x }) ∧
    (∀ m t, s.host = m :: rest → m ≠ .reset → step s = next t → t.status = s.status) ∧
    ¬EndsNormally s

/-- R44: a host write to RESULT or STATUS changes nothing, and a host read of CMD returns 0. -/
def Obligations.ReadOnlyPortsIgnoreWrites : Prop :=
  ∀ (s : State) (rest : List HostMove), s.cfg.wf = true →
    (∀ x, s.host = .write 0x10 64 x :: rest → step s = next { s with host := rest }) ∧
    (∀ x, s.host = .write 0x18 32 x :: rest → step s = next { s with host := rest }) ∧
    (s.host = .read 0x00 32 :: rest → step s = next { s with host := rest, replies := s.replies ++ [.cmd 0] })

/-- R274, the interactions that start no command: a write of ARG stores it; a read of RESULT, STATUS or ARG gets the
register back and changes nothing in the engine. -/
def Obligations.HostReadsAndWritesItsPorts : Prop :=
  ∀ (s : State) (rest : List HostMove), s.cfg.wf = true →
    (∀ x, s.host = .write 0x08 64 x :: rest → step s = next { s with host := rest, arg := x }) ∧
    (s.host = .read 0x10 64 :: rest →
      step s = next { s with host := rest, replies := s.replies ++ [.result s.result] }) ∧
    (s.host = .read 0x18 32 :: rest →
      step s = next { s with host := rest, replies := s.replies ++ [.status s.status] }) ∧
    (s.host = .read 0x08 64 :: rest → step s = next { s with host := rest, replies := s.replies ++ [.arg s.arg] })

/-- R60, R61: exactly the four whole-register accesses have a meaning; every other offset or width is refused (log 11).
A mapped read is answered; a mapped write of ARG, RESULT or STATUS is done or ignored (R44); a write of CMD is never
refused, and in a state whose STATUS agrees with its registers it answers a next state. -/
def Obligations.UnmappedAccessesAreRefused : Prop :=
  ∀ (s : State) (rest : List HostMove) (offset width : Nat), s.cfg.wf = true →
    let mapped := (offset = 0x00 ∧ width = 32) ∨ (offset = 0x08 ∧ width = 64) ∨ (offset = 0x10 ∧ width = 64) ∨
      (offset = 0x18 ∧ width = 32)
    (¬mapped → (s.host = .read offset width :: rest → step s = refused .unmappedPortAccess) ∧
      ∀ x, s.host = .write offset width x :: rest → step s = refused .unmappedPortAccess) ∧
    (mapped →
      (s.host = .read offset width :: rest → ∃ r, step s = next { s with host := rest, replies := s.replies ++ [r] }) ∧
      ∀ x, s.host = .write offset width x :: rest →
        (offset ≠ 0x00 →
          step s = next { s with host := rest, arg := if offset = 0x08 then x else s.arg }) ∧
        (∀ r, step s ≠ refused r) ∧ (StatusInv s → ∃ t, step s = next t))

/-- R52: a configuration with a block that runs past address 0xFF is refused (the one-byte identity read cannot), the
default one is not, and no burst a command issues leaves the register space. -/
def Obligations.BurstsStayInTheRegisterSpace : Prop :=
  (∀ s : State, (256 < s.cfg.cal1Addr.toNat + s.cfg.cal1Len ∨ 256 < s.cfg.cal2Addr.toNat + s.cfg.cal2Len ∨
      256 < s.cfg.dataAddr.toNat + s.cfg.dataLen) →
    step s = refused .illFormedConfig) ∧
  Config.default.wf = true ∧
  (∀ (s t : State) (i : Instr), exec i s = next t → ∃ events, t.busLog = s.busLog ++ events ∧
    ∀ e ∈ events, ∃ a n bytes, e = .memRead a n bytes ∧ a.toNat + n ≤ 256)

/-- R272: the engine does nothing until the host acts. -/
def Obligations.IdleEngineDoesNothing : Prop :=
  ∀ s : State, s.cfg.wf = true → s.host = [] → step s = next s

/-- R47, R271: the reset event puts every engine register in its value of R47 and touches nothing else; `State.reset`
holds the same values. -/
def Obligations.ResetRestoresTheRegisters : Prop :=
  (∀ (s : State) (rest : List HostMove), s.cfg.wf = true → s.host = .reset :: rest →
    step s = next { s with host := rest, cal := none, snap := none, calOffset := 0#64, arg := 0#64, result := 0#64,
                           status := 0#32 }) ∧
  State.reset.cal = none ∧ State.reset.snap = none ∧ State.reset.calOffset = 0#64 ∧ State.reset.arg = 0#64 ∧
  State.reset.result = 0#64 ∧ State.reset.status = 0#32

/-! ### The Calibration Store -/

/-- R110 on a matching identity: the identity, then block 1, then block 2 are read; the 18 coefficients are those decoded
from the bytes the history records; CAL_VALID and RESULT become 1; nothing else changes but the sensor's progress. -/
def Obligations.BeginLoadsTheStore : Prop :=
  ∀ s : State, calValid s.status = false → s.cfg.wf = true → identityByte s = s.cfg.idVal →
    ∃ t b1 b2, exec .begin s = next t ∧ b1.length = s.cfg.cal1Len ∧ b2.length = s.cfg.cal2Len ∧
      t.busLog = s.busLog ++ [.memRead s.cfg.idReg 1 [s.cfg.idVal], .memRead s.cfg.cal1Addr s.cfg.cal1Len b1,
        .memRead s.cfg.cal2Addr s.cfg.cal2Len b2] ∧
      t.cal = some (decodeCal b1 b2) ∧ t.result = 1#64 ∧ calValid t.status = true ∧
      sampleValid t.status = sampleValid s.status ∧ pUnav t.status = pUnav s.status ∧
      dewUnav t.status = dewUnav s.status ∧ faultBit t.status = faultBit s.status ∧
      ecode t.status = ecode s.status ∧ faultOp t.status = faultOp s.status ∧
      reservedBits t.status = reservedBits s.status ∧
      t = { s with cal := t.cal, result := t.result, status := t.status, busLog := t.busLog, sensor := t.sensor,
                   byteDraws := t.byteDraws }

/-- R111: on an identity mismatch BEGIN writes only RESULT, reads only the identity, and may be issued again. -/
def Obligations.BeginReportsAnIdentityMismatch : Prop :=
  ∀ s : State, calValid s.status = false → s.cfg.wf = true → identityByte s ≠ s.cfg.idVal →
    ∃ t, exec .begin s = next t ∧
      t = { s with result := 0#64, busLog := s.busLog ++ [.memRead s.cfg.idReg 1 [identityByte s]], sensor := t.sensor,
                   byteDraws := t.byteDraws } ∧
      (identityByte t = t.cfg.idVal → ∃ u, exec .begin t = next u ∧ calValid u.status = true ∧ u.result = 1#64)

/-- R113: GETCAL's gate, its index check and its result, the coefficient register extended by its own signedness. -/
def Obligations.GetCalReadsACoefficient : Prop :=
  ∀ s : State,
    (calValid s.status = false → faultBit s.status = false →
      ∃ t, exec .getCal s = next t ∧ RecordsFault s t 0x03 0x20) ∧
    (∀ c, calValid s.status = true → s.cal = some c → 17 < s.arg.toNat → faultBit s.status = false →
      ∃ t, exec .getCal s = next t ∧ RecordsFault s t 0x02 0x20) ∧
    (∀ c, calValid s.status = true → s.cal = some c → s.arg.toNat ≤ 17 →
      exec .getCal s = next { s with result :=
        ([c.digT1.setWidth 64, c.digT2.signExtend 64, c.digT3.signExtend 64,
          c.digP1.setWidth 64, c.digP2.signExtend 64, c.digP3.signExtend 64, c.digP4.signExtend 64,
          c.digP5.signExtend 64, c.digP6.signExtend 64, c.digP7.signExtend 64, c.digP8.signExtend 64,
          c.digP9.signExtend 64,
          c.digH1.setWidth 64, c.digH2.signExtend 64, c.digH3.setWidth 64, c.digH4.signExtend 64,
          c.digH5.signExtend 64, c.digH6.signExtend 64] : List Word64).getD s.arg.toNat 0 })

/-- R102: every coefficient's integer from the bytes of the two blocks, little-endian (R101), signed or unsigned as R24
says; `b1[24]` appears nowhere. `Int.bmod x 65536` reads a 16-bit word as two's complement. -/
def Obligations.CoefficientsDecodeAsTabulated : Prop :=
  ∀ b1 b2 : List Byte,
    let word (b : List Byte) (k : Nat) : Int := (byteAt b k).toNat + 256 * (byteAt b (k + 1)).toNat
    let signed (b : List Byte) (k : Nat) : Int := (word b k).bmod 65536
    let c := decodeCal b1 b2
    coefficient c 0 = some (word b1 0) ∧ coefficient c 1 = some (signed b1 2) ∧ coefficient c 2 = some (signed b1 4) ∧
    coefficient c 3 = some (word b1 6) ∧ coefficient c 4 = some (signed b1 8) ∧ coefficient c 5 = some (signed b1 10) ∧
    coefficient c 6 = some (signed b1 12) ∧ coefficient c 7 = some (signed b1 14) ∧
    coefficient c 8 = some (signed b1 16) ∧ coefficient c 9 = some (signed b1 18) ∧
    coefficient c 10 = some (signed b1 20) ∧ coefficient c 11 = some (signed b1 22) ∧
    coefficient c 12 = some ((byteAt b1 25).toNat : Int) ∧ coefficient c 13 = some (signed b2 0) ∧
    coefficient c 14 = some ((byteAt b2 2).toNat : Int) ∧
    coefficient c 15 = some ((byteAt b2 3).toInt * 16 + (byteAt b2 4).toNat % 16) ∧
    coefficient c 16 = some ((byteAt b2 5).toInt * 16 + (byteAt b2 4).toNat / 16) ∧
    coefficient c 17 = some (byteAt b2 6).toInt

/-- R104: the packed pair bit by bit, as two's complement 12-bit values, and the equivalent arithmetic form. -/
def Obligations.PackedPairSharesANibble : Prop :=
  ∀ b1 b2 : List Byte,
    let c := decodeCal b1 b2
    (∀ i < 4, c.digH4.getLsbD i = (byteAt b2 4).getLsbD i ∧ c.digH5.getLsbD i = (byteAt b2 4).getLsbD (4 + i)) ∧
    (∀ i < 8, c.digH4.getLsbD (4 + i) = (byteAt b2 3).getLsbD i ∧ c.digH5.getLsbD (4 + i) = (byteAt b2 5).getLsbD i) ∧
    (c.digH4.signExtend 16).toInt = (byteAt b2 3).toInt * 16 + (byteAt b2 4).toNat % 16 ∧
    (c.digH5.signExtend 16).toInt = (byteAt b2 5).toInt * 16 + (byteAt b2 4).toNat / 16 ∧
    -2048 ≤ c.digH4.toInt ∧ c.digH4.toInt ≤ 2047 ∧ -2048 ≤ c.digH5.toInt ∧ c.digH5.toInt ≤ 2047

/-- R106: over blocks of 26 and 7 bytes DECODE_CAL reaches every set of coefficients, and two pairs of blocks decode alike
exactly when they agree on every byte but `b1[24]`. -/
def Obligations.DecodeCalIsABijection : Prop :=
  (∀ c : Calibration, ∃ b1 b2 : List Byte, b1.length = 26 ∧ b2.length = 7 ∧ decodeCal b1 b2 = c) ∧
  (∀ b1 b2 b1' b2' : List Byte, b1.length = 26 → b2.length = 7 → b1'.length = 26 → b2'.length = 7 →
    (decodeCal b1 b2 = decodeCal b1' b2' ↔ (∀ k < 26, k ≠ 24 → byteAt b1 k = byteAt b1' k) ∧ b2 = b2'))

/-! ### Temperature -/

/-- R137: SETTEMPCAL stores ARG bit for bit in every state and changes nothing else. -/
def Obligations.SetTempCalStoresTheOffset : Prop :=
  ∀ s : State, exec .setTempCal s = next { s with calOffset := s.arg }

/-- R131 in the integers of R12 and R13: `Int.bmod x (2^32)` is `wrap_32`, `/` by a power of two is the arithmetic shift. -/
def Obligations.TcompIsTheIntegerFormula : Prop :=
  ∀ (adc : BitVec 20) (c : Calibration),
    let wrap (x : Int) : Int := x.bmod (2 ^ 32)
    let a : Int := adc.toNat
    let t1 : Int := c.digT1.toNat
    let var1 := wrap (wrap (a / 8 - wrap (t1 * 2)) * c.digT2.toInt) / 2048
    let d := wrap (a / 16 - t1)
    let var2 := wrap (wrap (d * d) / 4096 * c.digT3.toInt) / 16384
    (tcomp adc c).toInt = wrap (var1 + var2)

/-- R132, last claim: with the reference `DIG_T1..T3` no operation of TCOMP overflows, for any 20-bit raw temperature. -/
def Obligations.ReferenceTemperatureNeverOverflows : Prop :=
  ∀ (adc : BitVec 20) (c : Calibration), c.digT1 = 27504#16 → c.digT2 = 26435#16 → c.digT3 = 0xFC18#16 →
    let a : Int := adc.toNat
    let d := a / 16 - 27504
    (tcomp adc c).toInt = (a / 8 - 55008) * 26435 / 2048 + d * d / 4096 * (-1000) / 16384

/-- R135: the corner cases of `TEMP_C`: a zero fine temperature is `+0.0`; a NaN offset gives a NaN and an infinite one that
infinity; the offsets `+0.0` and `-0.0` both give `T0`. -/
def Obligations.OffsetCornerCases : Prop :=
  ∀ (nan : Nat → F64) (tf : Word32) (x : F64), (∀ k, isNaN (nan k) = true) →
    celsius (nan 0) 0#32 = 0#64 ∧
    (isNaN x = true → isNaN (tempWithOffset nan tf x) = true) ∧
    (isInf x = true → tempWithOffset nan tf x = x) ∧
    tempWithOffset nan tf 0#64 = celsius (nan 0) tf ∧
    tempWithOffset nan tf 0x8000000000000000#64 = celsius (nan 0) tf

/-! ### Pressure -/

/-- R151 in the integers of R12 and R13: `Int.bmod x (2^64)` is `wrap_64`, `/` by a power of two the arithmetic shift,
`Int.tdiv` the truncating division; the result is the low 32 bits (R154). -/
def Obligations.PcompIsTheIntegerFormula : Prop :=
  ∀ (adc : BitVec 20) (tf : Word32) (c : Calibration),
    let w (x : Int) : Int := x.bmod (2 ^ 64)
    let v1 := w (tf.toInt - 128000)
    let v2 := w (w (v1 * v1) * c.digP6.toInt)
    let v2 := w (v2 + w (w (v1 * c.digP5.toInt) * 2 ^ 17))
    let v2 := w (v2 + w (c.digP4.toInt * 2 ^ 35))
    let v1 := w (w (w (v1 * v1) * c.digP3.toInt) / 2 ^ 8 + w (w (v1 * c.digP2.toInt) * 2 ^ 12))
    let v1 := w (w (2 ^ 47 + v1) * c.digP1.toNat) / 2 ^ 33
    let p := w (1048576 - adc.toNat)
    let p := w ((w (w (w (p * 2 ^ 31) - v2) * 3125)).tdiv v1)
    let u1 := w (w (c.digP9.toInt * (p / 2 ^ 13)) * (p / 2 ^ 13)) / 2 ^ 25
    let u2 := w (c.digP8.toInt * p) / 2 ^ 19
    let p := w (w (w (p + u1) + u2) / 2 ^ 8 + w (c.digP7.toInt * 2 ^ 4))
    (v1 = 0 → pcomp adc tf c = (0#32, true)) ∧
    (v1 ≠ 0 → (pcomp adc tf c).2 = false ∧ ((pcomp adc tf c).1.toNat : Int) = p % 2 ^ 32)

/-- R153: the denominator is zero exactly when the wrapped product lies in [0, 2^33), in particular for `DIG_P1 = 0`; then
PCOMP answers `(0, 1)`, which POLL stores as `+0.0` Pa; otherwise it answers 0 in the second place. -/
def Obligations.ZeroDenominatorMeansUnavailable : Prop :=
  ∀ (adc : BitVec 20) (tf : Word32) (c : Calibration) (nan : F64),
    let v1 := pcompOffset tf
    let product := pcompScale v1 c * c.digP1.setWidth 64
    (pcompDenominator v1 c = 0 ↔ 0 ≤ product.toInt ∧ product.toInt < 2 ^ 33) ∧
    (c.digP1 = 0 → pcompDenominator v1 c = 0) ∧
    (pcompDenominator v1 c = 0 → pcomp adc tf c = (0, true)) ∧
    (pcompDenominator v1 c ≠ 0 → (pcomp adc tf c).2 = false) ∧
    pascals nan 0 = 0#64

/-- R156: the Pa conversion is exact, so `PRESS_PA` is a non-negative finite multiple of 1/256 that is at most
16777215.99609375; an unavailable pressure is `0.0`. -/
def Obligations.PascalConversionIsExact : Prop :=
  ∀ (nan : F64) (pq : Word32),
    isFinite (pascals nan pq) = true ∧ fNeg (pascals nan pq) = false ∧
    fGrid (pascals nan pq) * 256 = pq.toNat * gridOne ∧
    fKey (pascals nan pq) ≤ fKey (f64 1677721599609375 100000000) ∧
    ∀ (adc : BitVec 20) (tf : Word32) (c : Calibration), (pcomp adc tf c).2 = true → pascals nan (pcomp adc tf c).1 = 0#64

/-! ### Humidity -/

/-- R171: HCOMP's operations in its order and grouping, each with the NaN encoding it would draw (log 5). -/
def Obligations.HcompIsTheFloatFormula : Prop :=
  ∀ (n : Nat → F64) (adc : Word16) (tf : Word32) (c : Calibration),
    let h1 := i2f c.digH1.toNat
    let h2 := i2f c.digH2.toInt
    let h3 := i2f c.digH3.toNat
    let h4 := i2f c.digH4.toInt
    let h5 := i2f c.digH5.toInt
    let h6 := i2f c.digH6.toInt
    let v := fsub (n 0) (i2f tf.toInt) (f64 76800)
    let x3 := fadd (n 3) (f64 1) (fmul (n 2) (fdiv (n 1) h3 (f64 67108864)) v)
    let x6 := fadd (n 7) (f64 1) (fmul (n 6) (fmul (n 5) (fdiv (n 4) h6 (f64 67108864)) v) x3)
    let f := fmul (n 9) (fdiv (n 8) h2 (f64 65536)) x6
    let o := fadd (n 13) (fmul (n 10) h4 (f64 64)) (fmul (n 12) (fdiv (n 11) h5 (f64 16384)) v)
    let v := fmul (n 15) (fsub (n 14) (i2f adc.toNat) o) f
    let v := fmul (n 19) v (fsub (n 18) (f64 1) (fdiv (n 17) (fmul (n 16) h1 v) (f64 524288)))
    hcomp n adc tf c = (if fgt v (f64 100) then f64 100 else if flt v (f64 0) then f64 0 else v)

/-- R172: CLAMP. -/
def Obligations.ClampKeepsThePercentRange : Prop :=
  ∀ v : F64,
    (fgt v (f64 100) = true → clamp v = f64 100) ∧
    (fgt v (f64 100) = false → flt v (f64 0) = true → clamp v = f64 0) ∧
    (fgt v (f64 100) = false → flt v (f64 0) = false → clamp v = v) ∧
    (isNaN v = false → inPercentRange (clamp v) = true)

/-- R173: for every raw humidity, fine temperature and coefficient set the unclamped value is finite, so HCOMP lies in
[0, 100], whatever encoding a NaN would draw. -/
def Obligations.HumidityIsAlwaysAPercentage : Prop :=
  ∀ (nan : Nat → F64) (adc : Word16) (tf : Word32) (c : Calibration),
    isFinite (hcompUnclamped nan adc tf c) = true ∧ inPercentRange (hcomp nan adc tf c) = true

/-! ### POLL -/

/-- R212: the raw values from the eight data bytes, most significant byte first; the low nibbles of the xlsb bytes do not
matter. -/
def Obligations.RawSampleAssembly : Prop :=
  ∀ d : List Byte,
    (adcP d).toNat = (byteAt d 0).toNat * 4096 + (byteAt d 1).toNat * 16 + (byteAt d 2).toNat / 16 ∧
    (adcT d).toNat = (byteAt d 3).toNat * 4096 + (byteAt d 4).toNat * 16 + (byteAt d 5).toNat / 16 ∧
    (adcH d).toNat = (byteAt d 6).toNat * 256 + (byteAt d 7).toNat

/-- R215: POLL's gate, its one burst, the four snapshot registers, the two STATUS bits, and that nothing else changes. The
snapshot is computed from the bytes the history records. Which draw encodes a NaN result of which operation (`s.nans`),
and that `nanDraws` moves, are the model's choice (log 5): of such a result the spec fixes only that it is a NaN (D40). -/
def Obligations.PollRefreshesTheSnapshot : Prop :=
  ∀ s : State,
    (calValid s.status = false → faultBit s.status = false →
      ∃ t, exec .poll s = next t ∧ RecordsFault s t 0x03 0x03) ∧
    (∀ c, calValid s.status = true → s.cal = some c → s.cfg.wf = true →
      ∃ t m d, exec .poll s = next t ∧ t.snap = some m ∧ d.length = s.cfg.dataLen ∧
        t.busLog = s.busLog ++ [.memRead s.cfg.dataAddr s.cfg.dataLen d] ∧
        m.tFine = tcomp (adcT d) c ∧
        m.tempC = fadd (s.nans 1) (fdiv (s.nans 0) (i2f m.tFine.toInt) (f64 5120)) s.calOffset ∧
        m.pressPa = fdiv (s.nans 2) (i2f (pcomp (adcP d) m.tFine c).1.toNat) (f64 256) ∧
        m.hum = hcomp (fun k => s.nans (3 + k)) (adcH d) m.tFine c ∧
        pUnav t.status = (pcomp (adcP d) m.tFine c).2 ∧ sampleValid t.status = true ∧
        calValid t.status = calValid s.status ∧ dewUnav t.status = dewUnav s.status ∧
        faultBit t.status = faultBit s.status ∧ ecode t.status = ecode s.status ∧
        faultOp t.status = faultOp s.status ∧ reservedBits t.status = reservedBits s.status ∧
        t = { s with snap := t.snap, status := t.status, busLog := t.busLog, sensor := t.sensor,
                     byteDraws := t.byteDraws, nanDraws := t.nanDraws })

/-- R214: POLL never reads the previous snapshot: from two states that differ only in it, a POLL that gets past its gate
answers the same state. -/
def Obligations.PollIgnoresTheOldSnapshot : Prop :=
  ∀ (s t : State) (old : Option Snapshot), calValid s.status = true → exec .poll s = next t →
    exec .poll { s with snap := old } = next t

/-- R51: the sensor's answer is unconstrained: POLL can be answered with any bytes at all. -/
def Obligations.AnySensorAnswerIsPossible : Prop :=
  ∀ (s : State) (c : Calibration) (bytes : List Byte), calValid s.status = true → s.cal = some c → s.cfg.wf = true →
    bytes.length = s.cfg.dataLen → ∃ (sensor : List Byte) (t : State),
      exec .poll { s with sensor := sensor } = next t ∧
      t.busLog = s.busLog ++ [.memRead s.cfg.dataAddr s.cfg.dataLen bytes]

/-! ### The accessors -/

/-- R220: GETTEMPC's gate and its result, with nothing else changed. -/
def Obligations.GetTempCReturnsTheSnapshot : Prop :=
  ∀ s : State,
    (sampleValid s.status = false → faultBit s.status = false →
      ∃ t, exec .getTempC s = next t ∧ RecordsFault s t 0x05 0x10) ∧
    (∀ m, sampleValid s.status = true → s.snap = some m → exec .getTempC s = next { s with result := m.tempC })

/-- R222: GETHUM's gate and its result, with nothing else changed; under the snapshot invariant the result is in
[0, 100]. -/
def Obligations.GetHumReturnsTheSnapshot : Prop :=
  ∀ s : State,
    (sampleValid s.status = false → faultBit s.status = false →
      ∃ t, exec .getHum s = next t ∧ RecordsFault s t 0x05 0x12) ∧
    (∀ m, sampleValid s.status = true → s.snap = some m → exec .getHum s = next { s with result := m.hum } ∧
      (SnapshotInv s → inPercentRange m.hum = true))

/-- R223: GETPRESS's gate and its result, with nothing else changed. -/
def Obligations.GetPressReturnsTheSnapshot : Prop :=
  ∀ s : State,
    (sampleValid s.status = false → faultBit s.status = false →
      ∃ t, exec .getPress s = next t ∧ RecordsFault s t 0x05 0x13) ∧
    (∀ m, sampleValid s.status = true → s.snap = some m → exec .getPress s = next { s with result := m.pressPa })

/-- R221 with R136: GETTEMPF's gate and its result `((c *. 9.0) /. 5.0) +. 32.0`; which draw encodes a
NaN result of which operation, and that only `nanDraws` moves beside RESULT, are the model's choice (log 5). -/
def Obligations.GetTempFConvertsTheSnapshot : Prop :=
  ∀ s : State,
    (sampleValid s.status = false → faultBit s.status = false →
      ∃ t, exec .getTempF s = next t ∧ RecordsFault s t 0x05 0x11) ∧
    (∀ m, sampleValid s.status = true → s.snap = some m →
      exec .getTempF s = next { s with
        result := fadd (s.nans 2) (fdiv (s.nans 1) (fmul (s.nans 0) m.tempC (f64 9)) (f64 5)) (f64 32)
        nanDraws := s.nanDraws + 3 })

/-- R224 with R191: GETALT's two checks in order and its result. Which draw encodes a NaN result of which operation, and that
`nanDraws` moves, are the model's choice (log 5). -/
def Obligations.GetAltComputesTheAltitude : Prop :=
  ∀ s : State,
    (sampleValid s.status = false → faultBit s.status = false →
      ∃ t, exec .getAlt s = next t ∧ RecordsFault s t 0x05 0x14) ∧
    (∀ m, sampleValid s.status = true → s.snap = some m → faultBit s.status = false →
      (s.arg = 0#64 ∨ s.arg = 0x8000000000000000#64) → ∃ t, exec .getAlt s = next t ∧ RecordsFault s t 0x06 0x14) ∧
    (∀ m, sampleValid s.status = true → s.snap = some m → s.arg ≠ 0#64 → s.arg ≠ 0x8000000000000000#64 →
      exec .getAlt s = next { s with
        result := fmul (s.nans 3) (f64 44330) (fsub (s.nans 2) (f64 1)
          (Config.POW (fdiv (s.nans 0) m.pressPa s.arg) (fdiv (s.nans 1) (f64 1) (f64 5255 1000))))
        nanDraws := s.nanDraws + 4 })

/-- R225 with R194 and R196: GETDEWPT's gate, the sentinel for a zero humidity, the Magnus formula otherwise, and
DEW_UNAV; no other STATUS bit changes. Which draw encodes a NaN result of which operation, and that `nanDraws` moves, are
the model's choice (log 5). -/
def Obligations.GetDewPtComputesTheDewPoint : Prop :=
  ∀ s : State,
    (sampleValid s.status = false → faultBit s.status = false →
      ∃ t, exec .getDewPt s = next t ∧ RecordsFault s t 0x05 0x15) ∧
    (∀ m, sampleValid s.status = true → s.snap = some m →
      let zero := m.hum = 0#64 ∨ m.hum = 0x8000000000000000#64
      let g := fadd (s.nans 4) (Config.LN (fdiv (s.nans 0) m.hum (f64 100)))
        (fdiv (s.nans 3) (fmul (s.nans 1) (f64 1762 100) m.tempC) (fadd (s.nans 2) (f64 24312 100) m.tempC))
      ∃ t, exec .getDewPt s = next t ∧
        (zero → t.result = s.cfg.dewSentinel ∧ dewUnav t.status = true) ∧
        (¬zero → t.result = fdiv (s.nans 7) (fmul (s.nans 5) (f64 24312 100) g) (fsub (s.nans 6) (f64 1762 100) g) ∧
          dewUnav t.status = false) ∧
        calValid t.status = calValid s.status ∧ sampleValid t.status = sampleValid s.status ∧
        pUnav t.status = pUnav s.status ∧ faultBit t.status = faultBit s.status ∧ ecode t.status = ecode s.status ∧
        faultOp t.status = faultOp s.status ∧ reservedBits t.status = reservedBits s.status ∧
        t = { s with result := t.result, status := t.status, nanDraws := s.nanDraws + 8 })

/-- R193: the altitude corner cases, each under the property of `POW` the rule names, at ALT's exponent. -/
def Obligations.AltitudeCornerCases : Prop :=
  ∀ (pow : F64 → F64 → F64) (nan : Nat → F64) (p p0 : F64), (∀ k, isNaN (nan k) = true) →
    let e := fdiv (nan 1) (f64 1) (f64 5255 1000)
    (isFinite p = true → isZero p = false → pow (f64 1) e = f64 1 → alt pow nan p p = 0#64) ∧
    (isNaN p0 = false → isZero p0 = false → (∀ z, isZero z = true → pow z e = 0#64) →
      alt pow nan 0#64 p0 = f64 44330) ∧
    (isFinite p = true → isInf p0 = true → (∀ z, isZero z = true → pow z e = 0#64) →
      alt pow nan p p0 = f64 44330) ∧
    (isNaN p0 = true → (∀ x, isNaN x = true → isNaN (pow x e) = true) → isNaN (alt pow nan p p0) = true) ∧
    (isFinite p = true → fNeg p = false → isFinite p0 = true → isZero p0 = false → fNeg p0 = true →
      isZero (fdiv (nan 0) p p0) = false → isInf (fdiv (nan 0) p p0) = false →
      (∀ x, isFinite x = true → isZero x = false → fNeg x = true → isNaN (pow x e) = true) →
      isNaN (alt pow nan p p0) = true)

/-- R197: the dew point corner cases that need no property of `LN` beyond the one named: a NaN or infinite temperature
gives a NaN for a non-zero humidity; at `T = -243.12` a finite logarithm gives a NaN; the zero humidity wins over both. -/
def Obligations.DewPointCornerCases : Prop :=
  ∀ (ln : F64 → F64) (sentinel : F64) (nan : Nat → F64) (t rh : F64), (∀ k, isNaN (nan k) = true) →
    ((rh = 0#64 ∨ rh = 0x8000000000000000#64) → dew ln sentinel nan t rh = (sentinel, true)) ∧
    (isZero rh = false → (isNaN t = true ∨ isInf t = true) →
      isNaN (dew ln sentinel nan t rh).1 = true ∧ (dew ln sentinel nan t rh).2 = false) ∧
    (isZero rh = false → t = f64 (-24312) 100 → isFinite (ln (fdiv (nan 0) rh (f64 100))) = true →
      isNaN (dew ln sentinel nan t rh).1 = true ∧ (dew ln sentinel nan t rh).2 = false)

/-- R219: an accessor executed again with the same ARG and no POLL in between answers the same RESULT. Between the two
executions the host may do anything but a reset and a POLL: other commands, SETTEMPCAL among them, writes of ARG, reads;
the calibration offset may be any besides. Where the result is a NaN only that it is one is fixed (R14, D40; log 15).
GETALT's operand is not a NaN here, because `POW` of a NaN is not fixed. -/
def Obligations.AccessorsAreIdempotent : Prop :=
  ∀ (s t u v : State) (i : Instr) (x : F64) (between rest : List HostMove), isAccessor i = true → SnapshotInv s →
    (i = .getAlt → isNaN s.arg = false) → exec i s = next t → between.all keepsSnapshot = true →
    Sys2Proof.core.run between.length { t with calOffset := x, host := between ++ rest } = next u →
    u.arg = s.arg → exec i u = next v →
    v.result = t.result ∨ (isNaN v.result = true ∧ isNaN t.result = true)

/-! ### Faults -/

/-- R247: raising a fault performs exactly the three STATUS writes when FAULT is 0, and none when it is 1 (R42). -/
def Obligations.AFaultWritesOnlyItsRecord : Prop :=
  ∀ (s : State) (c : FaultCode) (op : Byte),
    (faultBit s.status = false → RecordsFault s (raiseFault c op s) c.code op) ∧
    (faultBit s.status = true → raiseFault c op s = s)

/-- R248: the order of the checks. Decode comes first, in every state; then the state gate, whatever ARG holds; then the
operand check. -/
def Obligations.FaultPriority : Prop :=
  ∀ s : State, s.cfg.wf = true → faultBit s.status = false →
    (∀ w rest e, s.host = cmdWrite w :: rest → decode w = .error e →
      ∃ t, step s = next t ∧ RecordsFault { s with host := rest } t 0x01 (w.extractLsb' 0 8)) ∧
    (calValid s.status = true → ∃ t, exec .begin s = next t ∧ RecordsFault s t 0x04 0x01) ∧
    (calValid s.status = false →
      (∃ t, exec .poll s = next t ∧ RecordsFault s t 0x03 0x03) ∧
      (∃ t, exec .getCal s = next t ∧ RecordsFault s t 0x03 0x20)) ∧
    (sampleValid s.status = false → ∀ i, isAccessor i = true →
      ∃ t, exec i s = next t ∧ RecordsFault s t 0x05 i.opcode) ∧
    (∀ c, calValid s.status = true → s.cal = some c → 17 < s.arg.toNat →
      ∃ t, exec .getCal s = next t ∧ RecordsFault s t 0x02 0x20) ∧
    (∀ m, sampleValid s.status = true → s.snap = some m → (s.arg = 0#64 ∨ s.arg = 0x8000000000000000#64) →
      ∃ t, exec .getAlt s = next t ∧ RecordsFault s t 0x06 0x14)

/-- R249: a command that faults changes nothing but the fault record: no bus read, no other state write. -/
def Obligations.FaultsArePrecise : Prop :=
  ∀ (i : Instr) (s t : State), faultBit s.status = false → exec i s = next t → faultBit t.status = true →
    ∃ code, RecordsFault s t code i.opcode ∧ t.busLog = s.busLog ∧ t.sensor = s.sensor

/-! ### What commands leave alone -/

/-- R35 and R20 to R22, over all commands: no command writes ARG, the parameters or the host's side. -/
def Obligations.CommandsLeaveTheHostSide : Prop :=
  ∀ (i : Instr) (s t : State), exec i s = next t →
    t.arg = s.arg ∧ t.cfg = s.cfg ∧ t.host = s.host ∧ t.replies = s.replies

/-- R25, R31, R32, R36, R218: which commands write which register. Only BEGIN writes coefficients, only POLL the snapshot,
only SETTEMPCAL the offset; SETTEMPCAL and POLL leave RESULT; only BEGIN and POLL read the bus; reserved STATUS bits are
never written (R43). -/
def Obligations.EachRegisterHasItsWriter : Prop :=
  ∀ (i : Instr) (s t : State), exec i s = next t →
    (i ≠ .begin → t.cal = s.cal) ∧ (i ≠ .poll → t.snap = s.snap) ∧ (i ≠ .setTempCal → t.calOffset = s.calOffset) ∧
    (i = .setTempCal ∨ i = .poll → t.result = s.result) ∧
    (i ≠ .begin → i ≠ .poll → t.busLog = s.busLog ∧ t.sensor = s.sensor ∧ t.byteDraws = s.byteDraws) ∧
    (i ≠ .begin → calValid t.status = calValid s.status) ∧
    (i ≠ .poll → sampleValid t.status = sampleValid s.status ∧ pUnav t.status = pUnav s.status) ∧
    (i ≠ .getDewPt → dewUnav t.status = dewUnav s.status) ∧
    reservedBits t.status = reservedBits s.status

/-! ### Whole-machine rules -/

/-- `State.reset` meets the three invariants. -/
def Obligations.ResetMeetsTheInvariants : Prop :=
  StatusInv State.reset ∧ BusInv State.reset ∧ SnapshotInv State.reset

/-- R26, R31, R37 to R43: every step keeps STATUS in agreement with the registers it speaks of. -/
def Obligations.StepKeepsStatusHonest : Prop :=
  ∀ s t : State, StatusInv s → step s = next t → StatusInv t

/-- R56, R57: every step keeps the history free of anything but the four bursts; in particular no step writes the sensor. -/
def Obligations.StepKeepsTheBusReadOnly : Prop :=
  ∀ s t : State, BusInv s → step s = next t → BusInv t

/-- R40, R156, R173: every step keeps the snapshot's humidity in [0, 100], its pressure a non-negative finite multiple of
1/256, and an unavailable pressure at the sentinel. -/
def Obligations.StepKeepsTheSnapshotInRange : Prop :=
  ∀ s t : State, SnapshotInv s → step s = next t → SnapshotInv t

/-- R25, R38, R39, R42, R270: nothing but reset clears CAL_VALID, SAMPLE_VALID or FAULT, changes a loaded calibration, or
overwrites the first fault's record. -/
def Obligations.OnlyResetClearsStatus : Prop :=
  ∀ s t : State, s.host.head? ≠ some .reset → step s = next t →
    (calValid s.status = true → calValid t.status = true ∧ t.cal = s.cal) ∧
    (sampleValid s.status = true → sampleValid t.status = true) ∧
    (faultBit s.status = true → faultBit t.status = true ∧ ecode t.status = ecode s.status ∧
      faultOp t.status = faultOp s.status)

/-- R274, R279: in every state that meets the invariant of STATUS, under a well-formed configuration, a mapped
interaction completes: the step answers a next state that meets the invariant again, with the interaction done. -/
def Obligations.MappedMovesAlwaysStep : Prop :=
  ∀ (s : State) (m : HostMove) (rest : List HostMove), StatusInv s → s.cfg.wf = true → s.host = m :: rest →
    moveMapped m = true → ∃ t, step s = next t ∧ t.host = rest ∧ t.cfg = s.cfg ∧ StatusInv t

/-- R276, R279: under a well-formed configuration a host program of port accesses and resets runs to its end, one step an
interaction, whatever the sensor answers, and its end state meets the three invariants. -/
def Obligations.HostProgramsRunToTheirEnd : Prop :=
  ∀ (cfg : Config) (sensor : List Byte) (program : List HostMove),
    cfg.wf = true → program.all moveMapped = true →
    ∃ t, Sys2Proof.core.run program.length (startOf cfg sensor program) = next t ∧ t.host = [] ∧ StatusInv t ∧
      BusInv t ∧ SnapshotInv t

/-! ### Binary64 arithmetic -/

/-- R14: `i2f` is exact for every integer below 2^53, and a zero is `+0.0`. -/
def Obligations.IntegerConversionIsExact : Prop :=
  ∀ n : Int, n.natAbs < 2 ^ 53 → isFinite (i2f n) = true ∧ fGrid (i2f n) = n * gridOne ∧ fNeg (i2f n) = decide (n < 0)

/-- R14 with IEEE 754 (PRESUMED, log 10): on finite operands a finite result is the binary64 nearest to the exact one, and
of two equally near the one with the even encoding. The result is an infinity exactly when the exact one is at least
halfway from the largest finite binary64 to `2^1024` in magnitude, and it is the infinity of the exact result's sign; a
nonzero operand divided by a zero is the infinity of the sign the operands give. The values are in units of 2^-1074. -/
def Obligations.OperationsRoundToNearest : Prop :=
  ∀ nan a b y : F64, isFinite a = true → isFinite b = true → isFinite y = true →
    let nearest (scale exact : Int) (x : F64) : Prop :=
      |fGrid x * scale - exact| ≤ |fGrid y * scale - exact| ∧
        (|fGrid x * scale - exact| = |fGrid y * scale - exact| → fGrid y = fGrid x ∨ fMag x % 2 = 0)
    let rounds (scale exact : Int) (neg : Bool) (x : F64) : Prop :=
      (isFinite x = true → nearest scale exact x) ∧ isNaN x = false ∧
        (isInf x = true ↔ overflowTwice * |scale| ≤ 2 * |exact|) ∧ (isInf x = true → fNeg x = neg)
    rounds 1 (fGrid a + fGrid b) (decide (fGrid a + fGrid b < 0)) (fadd nan a b) ∧
    rounds 1 (fGrid a - fGrid b) (decide (fGrid a - fGrid b < 0)) (fsub nan a b) ∧
    rounds gridOne (fGrid a * fGrid b) (fNeg a != fNeg b) (fmul nan a b) ∧
    (isZero b = false → rounds (fGrid b) (fGrid a * gridOne) (fNeg a != fNeg b) (fdiv nan a b)) ∧
    (isZero a = false → isZero b = true → isInf (fdiv nan a b) = true ∧ fNeg (fdiv nan a b) = (fNeg a != fNeg b))

/-- R14 and decision D40 with IEEE 754 (PRESUMED, log 10): an operation answers a NaN exactly on a NaN operand or an
invalid combination, the NaN is the drawn one, and every NaN encoding can be drawn (log 5). -/
def Obligations.NaNResultsAreDraws : Prop :=
  ∀ nan a b : F64, isNaN nan = true →
    let bad := isNaN a = true ∨ isNaN b = true
    let badAdd := bad ∨ (isInf a = true ∧ isInf b = true ∧ fNeg a ≠ fNeg b)
    let badSub := bad ∨ (isInf a = true ∧ isInf b = true ∧ fNeg a = fNeg b)
    let badMul := bad ∨ (isInf a = true ∧ isZero b = true) ∨ (isZero a = true ∧ isInf b = true)
    let badDiv := bad ∨ (isInf a = true ∧ isInf b = true) ∨ (isZero a = true ∧ isZero b = true)
    (badAdd → fadd nan a b = nan) ∧ (¬badAdd → isNaN (fadd nan a b) = false) ∧
    (badSub → fsub nan a b = nan) ∧ (¬badSub → isNaN (fsub nan a b) = false) ∧
    (badMul → fmul nan a b = nan) ∧ (¬badMul → isNaN (fmul nan a b) = false) ∧
    (badDiv → fdiv nan a b = nan) ∧ (¬badDiv → isNaN (fdiv nan a b) = false) ∧
    asNaN nan = nan ∧ ∀ k, isNaN (nanDraw k) = true
end

