-- ==== Sys2Proof/Laws/Decode.lean ====
section
/-! SUPPORT. The command word as its two fields, and the opcode map of R83 read both ways. -/

namespace Sys2Proof

/-- A word with a clear `RSV` is its opcode under zeros (R81). -/
theorem eq_of_reservedClear {w : Word32} (h : reservedClear w = true) : w = 0#24 ++ opcField w := by
  have h' : w.extractLsb' 8 24 = 0#24 := by simpa [reservedClear] using h
  apply BitVec.eq_of_getLsbD_eq
  intro i hi
  rw [BitVec.getLsbD_append]
  rcases Nat.lt_or_ge i 8 with h8 | h8
  · simp [opcField, h8]
  · have := congrArg (fun z => BitVec.getLsbD z (i - 8)) h'
    simp only [BitVec.getLsbD_extractLsb', BitVec.getLsbD_zero] at this
    rw [show 8 + (i - 8) = i by omega, decide_eq_true (show i - 8 < 24 by omega), Bool.true_and] at this
    simp [this, show ¬ i < 8 by omega]

theorem opcField_encode (i : Instr) : opcField (encode i) = i.opcode := by cases i <;> decide

theorem reservedClear_encode (i : Instr) : reservedClear (encode i) = true := by cases i <;> decide

theorem instrOfOpcode_opcode (i : Instr) : instrOfOpcode i.opcode = some i := by cases i <;> rfl

/-- The opcode map has one opcode per command. -/
theorem opcode_of_instrOfOpcode {op : Byte} {i : Instr} (h : instrOfOpcode op = some i) : op = i.opcode := by
  revert h; revert i; revert op; decide +kernel

end Sys2Proof
end

