-- ==== Sys2Proof/Laws/Flags.lean ====
section
/-! SUPPORT. What a write of one STATUS field does to every field: the written field takes the value, every other field and
every reserved bit keeps its own. -/

namespace Sys2Proof.Machine

/-! ### The two writers, bit by bit -/

theorem withBit_getLsbD (w : Word32) (k j : Nat) (b : Bool) (hk : k < 32) :
    (withBit w k b).getLsbD j = if j = k then b else w.getLsbD j := by
  have one : (1#32 <<< k).getLsbD j = decide (j = k) := by
    rw [BitVec.getLsbD_shiftLeft, BitVec.getLsbD_one]
    simp only [decide_eq_decide, ← Bool.decide_and, ← decide_not]
    by_cases h : j = k <;> simp [h] <;> omega
  cases b
  · simp only [withBit, Bool.false_eq_true, if_false, BitVec.getLsbD_and, BitVec.getLsbD_not, one]
    by_cases h : j = k <;> simp [h]
    exact fun h' => BitVec.lt_of_getLsbD h'
  · simp only [withBit, if_true, BitVec.getLsbD_or, one]
    by_cases h : j = k <;> simp [h]

theorem withByte_getLsbD (w : Word32) (lo j : Nat) (v : Byte) (hlo : lo + 8 ≤ 32) :
    (withByte w lo v).getLsbD j = if lo ≤ j ∧ j < lo + 8 then v.getLsbD (j - lo) else w.getLsbD j := by
  have ones : ∀ i, (0xFF#32).getLsbD i = decide (i < 8) := by
    intro i
    by_cases h : i < 32
    · revert i; decide
    · rw [BitVec.getLsbD_of_ge _ _ (by omega)]; simp; omega
  simp only [withByte, BitVec.getLsbD_or, BitVec.getLsbD_and, BitVec.getLsbD_not, BitVec.getLsbD_shiftLeft, ones,
    BitVec.getLsbD_setWidth]
  have hw : ∀ i, w.getLsbD i = true → i < 32 := fun i h => BitVec.lt_of_getLsbD h
  have hv : ∀ i, v.getLsbD i = true → i < 8 := fun i h => BitVec.lt_of_getLsbD h
  specialize hw j; specialize hv (j - lo)
  by_cases h : lo ≤ j ∧ j < lo + 8
  · have h1 : j < 32 := by omega
    have h2 : ¬ j < lo := by omega
    have h3 : j - lo < 8 := by omega
    have h4 : j - lo < 32 := by omega
    simp [h1, h2, h3, h4, h]
  · by_cases hj : j < 32
    · by_cases h2 : j < lo
      · simp [h, hj, h2]
      · have h3 : ¬ j - lo < 8 := by omega
        cases hvv : v.getLsbD (j - lo)
        · simp [h, hj, h3]
        · exact absurd (hv hvv) h3
    · have : w.getLsbD j = false := BitVec.getLsbD_of_ge _ _ (by omega)
      simp [h, hj, this]

/-! ### The byte fields and the reserved bits under the writers -/

theorem byteField_withBit (w : Word32) (k lo : Nat) (b : Bool) (hk : k < 32) (h : k < lo ∨ lo + 8 ≤ k) :
    (withBit w k b).extractLsb' lo 8 = w.extractLsb' lo 8 := by
  apply BitVec.eq_of_getLsbD_eq
  intro i hi
  have : lo + i ≠ k := by omega
  simp only [BitVec.getLsbD_extractLsb', withBit_getLsbD _ _ _ _ hk, this, if_false]

theorem byteField_withByte_self (w : Word32) (lo : Nat) (v : Byte) (hlo : lo + 8 ≤ 32) :
    (withByte w lo v).extractLsb' lo 8 = v := by
  apply BitVec.eq_of_getLsbD_eq
  intro i hi
  have h1 : lo ≤ lo + i ∧ lo + i < lo + 8 := by omega
  have h2 : lo + i - lo = i := by omega
  simp only [BitVec.getLsbD_extractLsb', withByte_getLsbD _ _ _ _ hlo, h1, h2, hi, decide_true, Bool.true_and,
    and_self, if_true]

theorem byteField_withByte_other (w : Word32) (lo lo' : Nat) (v : Byte) (hlo : lo + 8 ≤ 32)
    (h : lo' + 8 ≤ lo ∨ lo + 8 ≤ lo') : (withByte w lo v).extractLsb' lo' 8 = w.extractLsb' lo' 8 := by
  apply BitVec.eq_of_getLsbD_eq
  intro i hi
  have h1 : ¬(lo ≤ lo' + i ∧ lo' + i < lo + 8) := by omega
  simp only [BitVec.getLsbD_extractLsb', withByte_getLsbD _ _ _ _ hlo, h1, if_false]

theorem reservedBits_withBit (w : Word32) (k : Nat) (b : Bool) (hk : k < 32)
    (h : (0xFF000070#32).getLsbD k = false) : reservedBits (withBit w k b) = reservedBits w := by
  apply BitVec.eq_of_getLsbD_eq
  intro i _
  simp only [reservedBits, BitVec.getLsbD_and, withBit_getLsbD _ _ _ _ hk]
  by_cases hi : i = k
  · subst hi; rw [h, Bool.and_false, Bool.and_false]
  · simp only [hi, if_false]

theorem reservedBits_withByte (w : Word32) (lo : Nat) (v : Byte) (hlo : lo + 8 ≤ 32)
    (h : ∀ i, lo ≤ i ∧ i < lo + 8 → (0xFF000070#32).getLsbD i = false) :
    reservedBits (withByte w lo v) = reservedBits w := by
  apply BitVec.eq_of_getLsbD_eq
  intro i _
  simp only [reservedBits, BitVec.getLsbD_and, withByte_getLsbD _ _ _ _ hlo]
  by_cases hi : lo ≤ i ∧ i < lo + 8
  · rw [h i hi, Bool.and_false, Bool.and_false]
  · simp only [hi, if_false]

theorem reservedZero_congr {a b : Word32} (h : reservedBits a = reservedBits b) : reservedZero a = reservedZero b := by
  rw [reservedZero, h, reservedZero]

variable (w : Word32) (b : Bool) (v : Byte)

/-! ### `withCalValid` -/

@[simp] theorem calValid_withCalValid : calValid (withCalValid w b) = b :=
  (withBit_getLsbD w 0 0 b (by decide)).trans (if_pos rfl)
@[simp] theorem sampleValid_withCalValid : sampleValid (withCalValid w b) = sampleValid w :=
  (withBit_getLsbD w 0 1 b (by decide)).trans (if_neg (by decide))
@[simp] theorem pUnav_withCalValid : pUnav (withCalValid w b) = pUnav w :=
  (withBit_getLsbD w 0 2 b (by decide)).trans (if_neg (by decide))
@[simp] theorem dewUnav_withCalValid : dewUnav (withCalValid w b) = dewUnav w :=
  (withBit_getLsbD w 0 3 b (by decide)).trans (if_neg (by decide))
@[simp] theorem faultBit_withCalValid : faultBit (withCalValid w b) = faultBit w :=
  (withBit_getLsbD w 0 7 b (by decide)).trans (if_neg (by decide))
@[simp] theorem ecode_withCalValid : ecode (withCalValid w b) = ecode w := byteField_withBit _ _ _ _ (by decide) (by decide)
@[simp] theorem faultOp_withCalValid : faultOp (withCalValid w b) = faultOp w := byteField_withBit _ _ _ _ (by decide) (by decide)
@[simp] theorem reservedBits_withCalValid : reservedBits (withCalValid w b) = reservedBits w :=
  reservedBits_withBit _ _ _ (by decide) (by decide)
@[simp] theorem reservedZero_withCalValid : reservedZero (withCalValid w b) = reservedZero w := reservedZero_congr (by simp)

/-! ### `withSampleValid` -/

@[simp] theorem calValid_withSampleValid : calValid (withSampleValid w b) = calValid w :=
  (withBit_getLsbD w 1 0 b (by decide)).trans (if_neg (by decide))
@[simp] theorem sampleValid_withSampleValid : sampleValid (withSampleValid w b) = b :=
  (withBit_getLsbD w 1 1 b (by decide)).trans (if_pos rfl)
@[simp] theorem pUnav_withSampleValid : pUnav (withSampleValid w b) = pUnav w :=
  (withBit_getLsbD w 1 2 b (by decide)).trans (if_neg (by decide))
@[simp] theorem dewUnav_withSampleValid : dewUnav (withSampleValid w b) = dewUnav w :=
  (withBit_getLsbD w 1 3 b (by decide)).trans (if_neg (by decide))
@[simp] theorem faultBit_withSampleValid : faultBit (withSampleValid w b) = faultBit w :=
  (withBit_getLsbD w 1 7 b (by decide)).trans (if_neg (by decide))
@[simp] theorem ecode_withSampleValid : ecode (withSampleValid w b) = ecode w := byteField_withBit _ _ _ _ (by decide) (by decide)
@[simp] theorem faultOp_withSampleValid : faultOp (withSampleValid w b) = faultOp w := byteField_withBit _ _ _ _ (by decide) (by decide)
@[simp] theorem reservedBits_withSampleValid : reservedBits (withSampleValid w b) = reservedBits w :=
  reservedBits_withBit _ _ _ (by decide) (by decide)
@[simp] theorem reservedZero_withSampleValid : reservedZero (withSampleValid w b) = reservedZero w := reservedZero_congr (by simp)

/-! ### `withPUnav` -/

@[simp] theorem calValid_withPUnav : calValid (withPUnav w b) = calValid w :=
  (withBit_getLsbD w 2 0 b (by decide)).trans (if_neg (by decide))
@[simp] theorem sampleValid_withPUnav : sampleValid (withPUnav w b) = sampleValid w :=
  (withBit_getLsbD w 2 1 b (by decide)).trans (if_neg (by decide))
@[simp] theorem pUnav_withPUnav : pUnav (withPUnav w b) = b :=
  (withBit_getLsbD w 2 2 b (by decide)).trans (if_pos rfl)
@[simp] theorem dewUnav_withPUnav : dewUnav (withPUnav w b) = dewUnav w :=
  (withBit_getLsbD w 2 3 b (by decide)).trans (if_neg (by decide))
@[simp] theorem faultBit_withPUnav : faultBit (withPUnav w b) = faultBit w :=
  (withBit_getLsbD w 2 7 b (by decide)).trans (if_neg (by decide))
@[simp] theorem ecode_withPUnav : ecode (withPUnav w b) = ecode w := byteField_withBit _ _ _ _ (by decide) (by decide)
@[simp] theorem faultOp_withPUnav : faultOp (withPUnav w b) = faultOp w := byteField_withBit _ _ _ _ (by decide) (by decide)
@[simp] theorem reservedBits_withPUnav : reservedBits (withPUnav w b) = reservedBits w :=
  reservedBits_withBit _ _ _ (by decide) (by decide)
@[simp] theorem reservedZero_withPUnav : reservedZero (withPUnav w b) = reservedZero w := reservedZero_congr (by simp)

/-! ### `withDewUnav` -/

@[simp] theorem calValid_withDewUnav : calValid (withDewUnav w b) = calValid w :=
  (withBit_getLsbD w 3 0 b (by decide)).trans (if_neg (by decide))
@[simp] theorem sampleValid_withDewUnav : sampleValid (withDewUnav w b) = sampleValid w :=
  (withBit_getLsbD w 3 1 b (by decide)).trans (if_neg (by decide))
@[simp] theorem pUnav_withDewUnav : pUnav (withDewUnav w b) = pUnav w :=
  (withBit_getLsbD w 3 2 b (by decide)).trans (if_neg (by decide))
@[simp] theorem dewUnav_withDewUnav : dewUnav (withDewUnav w b) = b :=
  (withBit_getLsbD w 3 3 b (by decide)).trans (if_pos rfl)
@[simp] theorem faultBit_withDewUnav : faultBit (withDewUnav w b) = faultBit w :=
  (withBit_getLsbD w 3 7 b (by decide)).trans (if_neg (by decide))
@[simp] theorem ecode_withDewUnav : ecode (withDewUnav w b) = ecode w := byteField_withBit _ _ _ _ (by decide) (by decide)
@[simp] theorem faultOp_withDewUnav : faultOp (withDewUnav w b) = faultOp w := byteField_withBit _ _ _ _ (by decide) (by decide)
@[simp] theorem reservedBits_withDewUnav : reservedBits (withDewUnav w b) = reservedBits w :=
  reservedBits_withBit _ _ _ (by decide) (by decide)
@[simp] theorem reservedZero_withDewUnav : reservedZero (withDewUnav w b) = reservedZero w := reservedZero_congr (by simp)

/-! ### `withFault` -/

@[simp] theorem calValid_withFault : calValid (withFault w b) = calValid w :=
  (withBit_getLsbD w 7 0 b (by decide)).trans (if_neg (by decide))
@[simp] theorem sampleValid_withFault : sampleValid (withFault w b) = sampleValid w :=
  (withBit_getLsbD w 7 1 b (by decide)).trans (if_neg (by decide))
@[simp] theorem pUnav_withFault : pUnav (withFault w b) = pUnav w :=
  (withBit_getLsbD w 7 2 b (by decide)).trans (if_neg (by decide))
@[simp] theorem dewUnav_withFault : dewUnav (withFault w b) = dewUnav w :=
  (withBit_getLsbD w 7 3 b (by decide)).trans (if_neg (by decide))
@[simp] theorem faultBit_withFault : faultBit (withFault w b) = b :=
  (withBit_getLsbD w 7 7 b (by decide)).trans (if_pos rfl)
@[simp] theorem ecode_withFault : ecode (withFault w b) = ecode w := byteField_withBit _ _ _ _ (by decide) (by decide)
@[simp] theorem faultOp_withFault : faultOp (withFault w b) = faultOp w := byteField_withBit _ _ _ _ (by decide) (by decide)
@[simp] theorem reservedBits_withFault : reservedBits (withFault w b) = reservedBits w :=
  reservedBits_withBit _ _ _ (by decide) (by decide)
@[simp] theorem reservedZero_withFault : reservedZero (withFault w b) = reservedZero w := reservedZero_congr (by simp)

/-! ### `withEcode` -/

@[simp] theorem calValid_withEcode : calValid (withEcode w v) = calValid w :=
  (withByte_getLsbD w 8 0 v (by decide)).trans (if_neg (by decide))
@[simp] theorem sampleValid_withEcode : sampleValid (withEcode w v) = sampleValid w :=
  (withByte_getLsbD w 8 1 v (by decide)).trans (if_neg (by decide))
@[simp] theorem pUnav_withEcode : pUnav (withEcode w v) = pUnav w :=
  (withByte_getLsbD w 8 2 v (by decide)).trans (if_neg (by decide))
@[simp] theorem dewUnav_withEcode : dewUnav (withEcode w v) = dewUnav w :=
  (withByte_getLsbD w 8 3 v (by decide)).trans (if_neg (by decide))
@[simp] theorem faultBit_withEcode : faultBit (withEcode w v) = faultBit w :=
  (withByte_getLsbD w 8 7 v (by decide)).trans (if_neg (by decide))
@[simp] theorem ecode_withEcode : ecode (withEcode w v) = v := byteField_withByte_self _ _ _ (by decide)
@[simp] theorem faultOp_withEcode : faultOp (withEcode w v) = faultOp w := byteField_withByte_other _ _ _ _ (by decide) (by decide)
@[simp] theorem reservedBits_withEcode : reservedBits (withEcode w v) = reservedBits w :=
  reservedBits_withByte _ _ _ (by decide) (fun i hi => by obtain ⟨h1, h2⟩ := hi; interval_cases i <;> decide)
@[simp] theorem reservedZero_withEcode : reservedZero (withEcode w v) = reservedZero w := reservedZero_congr (by simp)

/-! ### `withFaultOp` -/

@[simp] theorem calValid_withFaultOp : calValid (withFaultOp w v) = calValid w :=
  (withByte_getLsbD w 16 0 v (by decide)).trans (if_neg (by decide))
@[simp] theorem sampleValid_withFaultOp : sampleValid (withFaultOp w v) = sampleValid w :=
  (withByte_getLsbD w 16 1 v (by decide)).trans (if_neg (by decide))
@[simp] theorem pUnav_withFaultOp : pUnav (withFaultOp w v) = pUnav w :=
  (withByte_getLsbD w 16 2 v (by decide)).trans (if_neg (by decide))
@[simp] theorem dewUnav_withFaultOp : dewUnav (withFaultOp w v) = dewUnav w :=
  (withByte_getLsbD w 16 3 v (by decide)).trans (if_neg (by decide))
@[simp] theorem faultBit_withFaultOp : faultBit (withFaultOp w v) = faultBit w :=
  (withByte_getLsbD w 16 7 v (by decide)).trans (if_neg (by decide))
@[simp] theorem ecode_withFaultOp : ecode (withFaultOp w v) = ecode w := byteField_withByte_other _ _ _ _ (by decide) (by decide)
@[simp] theorem faultOp_withFaultOp : faultOp (withFaultOp w v) = v := byteField_withByte_self _ _ _ (by decide)
@[simp] theorem reservedBits_withFaultOp : reservedBits (withFaultOp w v) = reservedBits w :=
  reservedBits_withByte _ _ _ (by decide) (fun i hi => by obtain ⟨h1, h2⟩ := hi; interval_cases i <;> decide)
@[simp] theorem reservedZero_withFaultOp : reservedZero (withFaultOp w v) = reservedZero w := reservedZero_congr (by simp)

/-! ### `faultStatus` (R247) -/

variable (c : FaultCode)

@[simp] theorem calValid_faultStatus : calValid (faultStatus w c v) = calValid w := by simp [faultStatus]
@[simp] theorem sampleValid_faultStatus : sampleValid (faultStatus w c v) = sampleValid w := by simp [faultStatus]
@[simp] theorem pUnav_faultStatus : pUnav (faultStatus w c v) = pUnav w := by simp [faultStatus]
@[simp] theorem dewUnav_faultStatus : dewUnav (faultStatus w c v) = dewUnav w := by simp [faultStatus]
@[simp] theorem faultBit_faultStatus : faultBit (faultStatus w c v) = true := by simp [faultStatus]
@[simp] theorem ecode_faultStatus : ecode (faultStatus w c v) = c.code := by simp [faultStatus]
@[simp] theorem faultOp_faultStatus : faultOp (faultStatus w c v) = v := by simp [faultStatus]
@[simp] theorem reservedBits_faultStatus : reservedBits (faultStatus w c v) = reservedBits w := by simp [faultStatus]
@[simp] theorem reservedZero_faultStatus : reservedZero (faultStatus w c v) = reservedZero w :=
  reservedZero_congr (by simp)

/-- The codes of R240 are 1 to 6. -/
theorem FaultCode.code_range : 1 ≤ c.code.toNat ∧ c.code.toNat ≤ 6 := by cases c <;> decide

/-- R240's codes tell the faults apart. -/
theorem FaultCode.code_injective {c d : FaultCode} (h : c.code = d.code) : c = d := by
  cases c <;> cases d <;> first | rfl | exact absurd h (by decide)

/-- STATUS is its fields: equal fields and reserved bits make equal words. -/
theorem status_ext {x y : Word32} (h0 : calValid x = calValid y) (h1 : sampleValid x = sampleValid y)
    (h2 : pUnav x = pUnav y) (h3 : dewUnav x = dewUnav y) (h7 : faultBit x = faultBit y) (he : ecode x = ecode y)
    (ho : faultOp x = faultOp y) (hr : reservedBits x = reservedBits y) : x = y := by
  apply BitVec.eq_of_getLsbD_eq
  intro i hi
  have he' : ∀ j < 8, x.getLsbD (8 + j) = y.getLsbD (8 + j) := fun j hj => by
    simpa [ecode, BitVec.getLsbD_extractLsb', hj] using congrArg (fun z => BitVec.getLsbD z j) he
  have ho' : ∀ j < 8, x.getLsbD (16 + j) = y.getLsbD (16 + j) := fun j hj => by
    simpa [faultOp, BitVec.getLsbD_extractLsb', hj] using congrArg (fun z => BitVec.getLsbD z j) ho
  have hr' : (0xFF000070#32).getLsbD i = true → x.getLsbD i = y.getLsbD i := fun hm => by
    have := congrArg (fun z => BitVec.getLsbD z i) hr
    simp only [reservedBits, BitVec.getLsbD_and, hm, Bool.and_true] at this
    exact this
  rcases Nat.lt_or_ge i 8 with h | h
  · interval_cases i
    · exact h0
    · exact h1
    · exact h2
    · exact h3
    · exact hr' (by decide)
    · exact hr' (by decide)
    · exact hr' (by decide)
    · exact h7
  · rcases Nat.lt_or_ge i 16 with h' | h'
    · have := he' (i - 8) (by omega); rwa [show 8 + (i - 8) = i by omega] at this
    · rcases Nat.lt_or_ge i 24 with h'' | h''
      · have := ho' (i - 16) (by omega); rwa [show 16 + (i - 16) = i by omega] at this
      · exact hr' (by interval_cases i <;> decide)

end Sys2Proof.Machine
end

