-- ==== Sys2Proof/Laws/State.lean ====
section
/-! SUPPORT. One lemma per field per register update, so that no proof unfolds a record update. -/

namespace Sys2Proof.Machine

variable (s : State)

/-! ### `setResult` -/

@[simp] theorem State.setResult_cfg (v : Word64) : (s.setResult v).cfg = s.cfg := rfl
@[simp] theorem State.setResult_cal (v : Word64) : (s.setResult v).cal = s.cal := rfl
@[simp] theorem State.setResult_snap (v : Word64) : (s.setResult v).snap = s.snap := rfl
@[simp] theorem State.setResult_calOffset (v : Word64) : (s.setResult v).calOffset = s.calOffset := rfl
@[simp] theorem State.setResult_arg (v : Word64) : (s.setResult v).arg = s.arg := rfl
@[simp] theorem State.setResult_result (v : Word64) : (s.setResult v).result = v := rfl
@[simp] theorem State.setResult_status (v : Word64) : (s.setResult v).status = s.status := rfl
@[simp] theorem State.setResult_busLog (v : Word64) : (s.setResult v).busLog = s.busLog := rfl
@[simp] theorem State.setResult_sensor (v : Word64) : (s.setResult v).sensor = s.sensor := rfl
@[simp] theorem State.setResult_byteDraws (v : Word64) : (s.setResult v).byteDraws = s.byteDraws := rfl
@[simp] theorem State.setResult_nanDraws (v : Word64) : (s.setResult v).nanDraws = s.nanDraws := rfl
@[simp] theorem State.setResult_host (v : Word64) : (s.setResult v).host = s.host := rfl
@[simp] theorem State.setResult_replies (v : Word64) : (s.setResult v).replies = s.replies := rfl

/-! ### `setArg` -/

@[simp] theorem State.setArg_cfg (v : Word64) : (s.setArg v).cfg = s.cfg := rfl
@[simp] theorem State.setArg_cal (v : Word64) : (s.setArg v).cal = s.cal := rfl
@[simp] theorem State.setArg_snap (v : Word64) : (s.setArg v).snap = s.snap := rfl
@[simp] theorem State.setArg_calOffset (v : Word64) : (s.setArg v).calOffset = s.calOffset := rfl
@[simp] theorem State.setArg_arg (v : Word64) : (s.setArg v).arg = v := rfl
@[simp] theorem State.setArg_result (v : Word64) : (s.setArg v).result = s.result := rfl
@[simp] theorem State.setArg_status (v : Word64) : (s.setArg v).status = s.status := rfl
@[simp] theorem State.setArg_busLog (v : Word64) : (s.setArg v).busLog = s.busLog := rfl
@[simp] theorem State.setArg_sensor (v : Word64) : (s.setArg v).sensor = s.sensor := rfl
@[simp] theorem State.setArg_byteDraws (v : Word64) : (s.setArg v).byteDraws = s.byteDraws := rfl
@[simp] theorem State.setArg_nanDraws (v : Word64) : (s.setArg v).nanDraws = s.nanDraws := rfl
@[simp] theorem State.setArg_host (v : Word64) : (s.setArg v).host = s.host := rfl
@[simp] theorem State.setArg_replies (v : Word64) : (s.setArg v).replies = s.replies := rfl

/-! ### `setStatus` -/

@[simp] theorem State.setStatus_cfg (v : Word32) : (s.setStatus v).cfg = s.cfg := rfl
@[simp] theorem State.setStatus_cal (v : Word32) : (s.setStatus v).cal = s.cal := rfl
@[simp] theorem State.setStatus_snap (v : Word32) : (s.setStatus v).snap = s.snap := rfl
@[simp] theorem State.setStatus_calOffset (v : Word32) : (s.setStatus v).calOffset = s.calOffset := rfl
@[simp] theorem State.setStatus_arg (v : Word32) : (s.setStatus v).arg = s.arg := rfl
@[simp] theorem State.setStatus_result (v : Word32) : (s.setStatus v).result = s.result := rfl
@[simp] theorem State.setStatus_status (v : Word32) : (s.setStatus v).status = v := rfl
@[simp] theorem State.setStatus_busLog (v : Word32) : (s.setStatus v).busLog = s.busLog := rfl
@[simp] theorem State.setStatus_sensor (v : Word32) : (s.setStatus v).sensor = s.sensor := rfl
@[simp] theorem State.setStatus_byteDraws (v : Word32) : (s.setStatus v).byteDraws = s.byteDraws := rfl
@[simp] theorem State.setStatus_nanDraws (v : Word32) : (s.setStatus v).nanDraws = s.nanDraws := rfl
@[simp] theorem State.setStatus_host (v : Word32) : (s.setStatus v).host = s.host := rfl
@[simp] theorem State.setStatus_replies (v : Word32) : (s.setStatus v).replies = s.replies := rfl

/-! ### `setCalOffset` -/

@[simp] theorem State.setCalOffset_cfg (v : F64) : (s.setCalOffset v).cfg = s.cfg := rfl
@[simp] theorem State.setCalOffset_cal (v : F64) : (s.setCalOffset v).cal = s.cal := rfl
@[simp] theorem State.setCalOffset_snap (v : F64) : (s.setCalOffset v).snap = s.snap := rfl
@[simp] theorem State.setCalOffset_calOffset (v : F64) : (s.setCalOffset v).calOffset = v := rfl
@[simp] theorem State.setCalOffset_arg (v : F64) : (s.setCalOffset v).arg = s.arg := rfl
@[simp] theorem State.setCalOffset_result (v : F64) : (s.setCalOffset v).result = s.result := rfl
@[simp] theorem State.setCalOffset_status (v : F64) : (s.setCalOffset v).status = s.status := rfl
@[simp] theorem State.setCalOffset_busLog (v : F64) : (s.setCalOffset v).busLog = s.busLog := rfl
@[simp] theorem State.setCalOffset_sensor (v : F64) : (s.setCalOffset v).sensor = s.sensor := rfl
@[simp] theorem State.setCalOffset_byteDraws (v : F64) : (s.setCalOffset v).byteDraws = s.byteDraws := rfl
@[simp] theorem State.setCalOffset_nanDraws (v : F64) : (s.setCalOffset v).nanDraws = s.nanDraws := rfl
@[simp] theorem State.setCalOffset_host (v : F64) : (s.setCalOffset v).host = s.host := rfl
@[simp] theorem State.setCalOffset_replies (v : F64) : (s.setCalOffset v).replies = s.replies := rfl

/-! ### `setCal` -/

@[simp] theorem State.setCal_cfg (c : Calibration) : (s.setCal c).cfg = s.cfg := rfl
@[simp] theorem State.setCal_cal (c : Calibration) : (s.setCal c).cal = some c := rfl
@[simp] theorem State.setCal_snap (c : Calibration) : (s.setCal c).snap = s.snap := rfl
@[simp] theorem State.setCal_calOffset (c : Calibration) : (s.setCal c).calOffset = s.calOffset := rfl
@[simp] theorem State.setCal_arg (c : Calibration) : (s.setCal c).arg = s.arg := rfl
@[simp] theorem State.setCal_result (c : Calibration) : (s.setCal c).result = s.result := rfl
@[simp] theorem State.setCal_status (c : Calibration) : (s.setCal c).status = s.status := rfl
@[simp] theorem State.setCal_busLog (c : Calibration) : (s.setCal c).busLog = s.busLog := rfl
@[simp] theorem State.setCal_sensor (c : Calibration) : (s.setCal c).sensor = s.sensor := rfl
@[simp] theorem State.setCal_byteDraws (c : Calibration) : (s.setCal c).byteDraws = s.byteDraws := rfl
@[simp] theorem State.setCal_nanDraws (c : Calibration) : (s.setCal c).nanDraws = s.nanDraws := rfl
@[simp] theorem State.setCal_host (c : Calibration) : (s.setCal c).host = s.host := rfl
@[simp] theorem State.setCal_replies (c : Calibration) : (s.setCal c).replies = s.replies := rfl

/-! ### `setSnap` -/

@[simp] theorem State.setSnap_cfg (m : Snapshot) : (s.setSnap m).cfg = s.cfg := rfl
@[simp] theorem State.setSnap_cal (m : Snapshot) : (s.setSnap m).cal = s.cal := rfl
@[simp] theorem State.setSnap_snap (m : Snapshot) : (s.setSnap m).snap = some m := rfl
@[simp] theorem State.setSnap_calOffset (m : Snapshot) : (s.setSnap m).calOffset = s.calOffset := rfl
@[simp] theorem State.setSnap_arg (m : Snapshot) : (s.setSnap m).arg = s.arg := rfl
@[simp] theorem State.setSnap_result (m : Snapshot) : (s.setSnap m).result = s.result := rfl
@[simp] theorem State.setSnap_status (m : Snapshot) : (s.setSnap m).status = s.status := rfl
@[simp] theorem State.setSnap_busLog (m : Snapshot) : (s.setSnap m).busLog = s.busLog := rfl
@[simp] theorem State.setSnap_sensor (m : Snapshot) : (s.setSnap m).sensor = s.sensor := rfl
@[simp] theorem State.setSnap_byteDraws (m : Snapshot) : (s.setSnap m).byteDraws = s.byteDraws := rfl
@[simp] theorem State.setSnap_nanDraws (m : Snapshot) : (s.setSnap m).nanDraws = s.nanDraws := rfl
@[simp] theorem State.setSnap_host (m : Snapshot) : (s.setSnap m).host = s.host := rfl
@[simp] theorem State.setSnap_replies (m : Snapshot) : (s.setSnap m).replies = s.replies := rfl

/-! ### `setHost` -/

@[simp] theorem State.setHost_cfg (h : List HostMove) : (s.setHost h).cfg = s.cfg := rfl
@[simp] theorem State.setHost_cal (h : List HostMove) : (s.setHost h).cal = s.cal := rfl
@[simp] theorem State.setHost_snap (h : List HostMove) : (s.setHost h).snap = s.snap := rfl
@[simp] theorem State.setHost_calOffset (h : List HostMove) : (s.setHost h).calOffset = s.calOffset := rfl
@[simp] theorem State.setHost_arg (h : List HostMove) : (s.setHost h).arg = s.arg := rfl
@[simp] theorem State.setHost_result (h : List HostMove) : (s.setHost h).result = s.result := rfl
@[simp] theorem State.setHost_status (h : List HostMove) : (s.setHost h).status = s.status := rfl
@[simp] theorem State.setHost_busLog (h : List HostMove) : (s.setHost h).busLog = s.busLog := rfl
@[simp] theorem State.setHost_sensor (h : List HostMove) : (s.setHost h).sensor = s.sensor := rfl
@[simp] theorem State.setHost_byteDraws (h : List HostMove) : (s.setHost h).byteDraws = s.byteDraws := rfl
@[simp] theorem State.setHost_nanDraws (h : List HostMove) : (s.setHost h).nanDraws = s.nanDraws := rfl
@[simp] theorem State.setHost_host (h : List HostMove) : (s.setHost h).host = h := rfl
@[simp] theorem State.setHost_replies (h : List HostMove) : (s.setHost h).replies = s.replies := rfl

/-! ### `addReply` -/

@[simp] theorem State.addReply_cfg (r : Reply) : (s.addReply r).cfg = s.cfg := rfl
@[simp] theorem State.addReply_cal (r : Reply) : (s.addReply r).cal = s.cal := rfl
@[simp] theorem State.addReply_snap (r : Reply) : (s.addReply r).snap = s.snap := rfl
@[simp] theorem State.addReply_calOffset (r : Reply) : (s.addReply r).calOffset = s.calOffset := rfl
@[simp] theorem State.addReply_arg (r : Reply) : (s.addReply r).arg = s.arg := rfl
@[simp] theorem State.addReply_result (r : Reply) : (s.addReply r).result = s.result := rfl
@[simp] theorem State.addReply_status (r : Reply) : (s.addReply r).status = s.status := rfl
@[simp] theorem State.addReply_busLog (r : Reply) : (s.addReply r).busLog = s.busLog := rfl
@[simp] theorem State.addReply_sensor (r : Reply) : (s.addReply r).sensor = s.sensor := rfl
@[simp] theorem State.addReply_byteDraws (r : Reply) : (s.addReply r).byteDraws = s.byteDraws := rfl
@[simp] theorem State.addReply_nanDraws (r : Reply) : (s.addReply r).nanDraws = s.nanDraws := rfl
@[simp] theorem State.addReply_host (r : Reply) : (s.addReply r).host = s.host := rfl
@[simp] theorem State.addReply_replies (r : Reply) : (s.addReply r).replies = s.replies ++ [r] := rfl

/-! ### `drawNaNs` -/

@[simp] theorem State.drawNaNs_cfg (n : Nat) : (s.drawNaNs n).cfg = s.cfg := rfl
@[simp] theorem State.drawNaNs_cal (n : Nat) : (s.drawNaNs n).cal = s.cal := rfl
@[simp] theorem State.drawNaNs_snap (n : Nat) : (s.drawNaNs n).snap = s.snap := rfl
@[simp] theorem State.drawNaNs_calOffset (n : Nat) : (s.drawNaNs n).calOffset = s.calOffset := rfl
@[simp] theorem State.drawNaNs_arg (n : Nat) : (s.drawNaNs n).arg = s.arg := rfl
@[simp] theorem State.drawNaNs_result (n : Nat) : (s.drawNaNs n).result = s.result := rfl
@[simp] theorem State.drawNaNs_status (n : Nat) : (s.drawNaNs n).status = s.status := rfl
@[simp] theorem State.drawNaNs_busLog (n : Nat) : (s.drawNaNs n).busLog = s.busLog := rfl
@[simp] theorem State.drawNaNs_sensor (n : Nat) : (s.drawNaNs n).sensor = s.sensor := rfl
@[simp] theorem State.drawNaNs_byteDraws (n : Nat) : (s.drawNaNs n).byteDraws = s.byteDraws := rfl
@[simp] theorem State.drawNaNs_nanDraws (n : Nat) : (s.drawNaNs n).nanDraws = s.nanDraws + n := rfl
@[simp] theorem State.drawNaNs_host (n : Nat) : (s.drawNaNs n).host = s.host := rfl
@[simp] theorem State.drawNaNs_replies (n : Nat) : (s.drawNaNs n).replies = s.replies := rfl

/-! ### `busRead` -/

@[simp] theorem busRead_cfg (a : Byte) (n : Nat) : (busRead s a n).cfg = s.cfg := rfl
@[simp] theorem busRead_cal (a : Byte) (n : Nat) : (busRead s a n).cal = s.cal := rfl
@[simp] theorem busRead_snap (a : Byte) (n : Nat) : (busRead s a n).snap = s.snap := rfl
@[simp] theorem busRead_calOffset (a : Byte) (n : Nat) : (busRead s a n).calOffset = s.calOffset := rfl
@[simp] theorem busRead_arg (a : Byte) (n : Nat) : (busRead s a n).arg = s.arg := rfl
@[simp] theorem busRead_result (a : Byte) (n : Nat) : (busRead s a n).result = s.result := rfl
@[simp] theorem busRead_status (a : Byte) (n : Nat) : (busRead s a n).status = s.status := rfl
@[simp] theorem busRead_busLog (a : Byte) (n : Nat) : (busRead s a n).busLog = s.busLog ++ [.memRead a n (busBytes s n)] := rfl
@[simp] theorem busRead_sensor (a : Byte) (n : Nat) : (busRead s a n).sensor = s.sensor.drop n := rfl
@[simp] theorem busRead_byteDraws (a : Byte) (n : Nat) : (busRead s a n).byteDraws = s.byteDraws + (n - s.sensor.length) := rfl
@[simp] theorem busRead_nanDraws (a : Byte) (n : Nat) : (busRead s a n).nanDraws = s.nanDraws := rfl
@[simp] theorem busRead_host (a : Byte) (n : Nat) : (busRead s a n).host = s.host := rfl
@[simp] theorem busRead_replies (a : Byte) (n : Nat) : (busRead s a n).replies = s.replies := rfl

/-! ### Updates that write back what is there -/

@[simp] theorem State.setStatus_self : s.setStatus s.status = s := rfl
@[simp] theorem State.setHost_self : s.setHost s.host = s := rfl
@[simp] theorem State.setHost_setHost (h h' : List HostMove) : (s.setHost h).setHost h' = s.setHost h' := rfl

end Sys2Proof.Machine
end

