-- ==== Sys2Proof/Laws/Ops.lean ====
section
/-! SUPPORT. What the shared operations can do, said once each: the sensor oracle, raising a fault, the gates. -/

namespace Sys2Proof.Machine

/-! ### The sensor oracle (R51) -/

@[simp] theorem oracleBytes_length (n : Nat) (l : List Byte) (k : Nat) : (oracleBytes n l k).length = n := by
  induction n generalizing l k with
  | zero => rfl
  | succ n ih => cases l <;> simp [oracleBytes, ih]

/-- A determined answer is returned as it stands: any byte sequence can be one (R51). -/
theorem oracleBytes_append (bytes rest : List Byte) (k : Nat) :
    oracleBytes bytes.length (bytes ++ rest) k = bytes := by
  induction bytes with
  | nil => rfl
  | cons b bs ih => simp [oracleBytes, ih]

@[simp] theorem byteAt_cons_zero (b : Byte) (l : List Byte) : byteAt (b :: l) 0 = b := rfl
@[simp] theorem byteAt_cons_succ (b : Byte) (l : List Byte) (k : Nat) : byteAt (b :: l) (k + 1) = byteAt l k := rfl

/-- Byte `i` of a burst: a determined byte while there is one, else the free value of its draw (log 2). -/
theorem byteAt_oracleBytes {n i : Nat} (h : i < n) (l : List Byte) (k : Nat) :
    byteAt (oracleBytes n l k) i = if h : i < l.length then l[i] else Config.freeByte (k + (i - l.length)) := by
  induction n generalizing l k i with
  | zero => omega
  | succ n ih =>
    cases l with
    | nil =>
      cases i with
      | zero => rfl
      | succ i => simp [oracleBytes, ih (i := i) (by omega) [] (k + 1), Nat.add_comm, Nat.add_left_comm]
    | cons b rest =>
      cases i with
      | zero => rfl
      | succ i => simp [oracleBytes, ih (i := i) (by omega) rest k]

@[simp] theorem busBytes_length (s : State) (n : Nat) : (busBytes s n).length = n := oracleBytes_length _ _ _

/-! ### Raising a fault (R17, R247) -/

theorem raiseFault_of_faulted {s : State} (h : faultBit s.status = true) (c : FaultCode) (op : Byte) :
    raiseFault c op s = s := by simp [raiseFault, h]

theorem raiseFault_of_clear {s : State} (h : faultBit s.status = false) (c : FaultCode) (op : Byte) :
    raiseFault c op s = s.setStatus (faultStatus s.status c op) := by simp [raiseFault, h]

/-- A fault changes STATUS alone. -/
theorem raiseFault_eq_setStatus (c : FaultCode) (op : Byte) (s : State) :
    raiseFault c op s = s.setStatus (raiseFault c op s).status := by
  unfold raiseFault; split <;> rfl

@[simp] theorem raiseFault_faultBit (c : FaultCode) (op : Byte) (s : State) :
    faultBit (raiseFault c op s).status = true := by
  unfold raiseFault; split <;> simp_all

/-- A fault leaves the other fields of STATUS as they are (R247). -/
theorem raiseFault_keeps (c : FaultCode) (op : Byte) (s : State) :
    calValid (raiseFault c op s).status = calValid s.status ∧
    sampleValid (raiseFault c op s).status = sampleValid s.status ∧
    pUnav (raiseFault c op s).status = pUnav s.status ∧ dewUnav (raiseFault c op s).status = dewUnav s.status ∧
    reservedBits (raiseFault c op s).status = reservedBits s.status := by
  unfold raiseFault; split <;> simp

/-! ### The gates (R248) -/

/-- Everything POLL's and GETCAL's gate can do (R243). -/
theorem withCalibration_cases (i : Instr) (s : State) (k : Calibration → Result) :
    (∃ c, calValid s.status = true ∧ s.cal = some c ∧ withCalibration i s k = k c) ∨
    (calValid s.status = true ∧ s.cal = none ∧ withCalibration i s k = .fault .absentCalibration) ∨
    (calValid s.status = false ∧ withCalibration i s k = .next (raiseFault .noCal i.opcode s)) := by
  unfold withCalibration
  cases hv : calValid s.status
  · simp
  · cases hc : s.cal <;> simp

/-- Everything the accessors' gate can do (R245). -/
theorem withSnapshot_cases (i : Instr) (s : State) (k : Snapshot → Result) :
    (∃ m, sampleValid s.status = true ∧ s.snap = some m ∧ withSnapshot i s k = k m) ∨
    (sampleValid s.status = true ∧ s.snap = none ∧ withSnapshot i s k = .fault .absentSnapshot) ∨
    (sampleValid s.status = false ∧ withSnapshot i s k = .next (raiseFault .noSample i.opcode s)) := by
  unfold withSnapshot
  cases hv : sampleValid s.status
  · simp
  · cases hc : s.snap <;> simp

theorem withCalibration_open {i : Instr} {s : State} {c : Calibration} (hv : calValid s.status = true)
    (hc : s.cal = some c) (k : Calibration → Result) : withCalibration i s k = k c := by
  simp [withCalibration, hv, hc]

theorem withCalibration_shut {i : Instr} {s : State} (hv : calValid s.status = false) (k : Calibration → Result) :
    withCalibration i s k = .next (raiseFault .noCal i.opcode s) := by simp [withCalibration, hv]

theorem withSnapshot_open {i : Instr} {s : State} {m : Snapshot} (hv : sampleValid s.status = true)
    (hm : s.snap = some m) (k : Snapshot → Result) : withSnapshot i s k = k m := by
  simp [withSnapshot, hv, hm]

theorem withSnapshot_shut {i : Instr} {s : State} (hv : sampleValid s.status = false) (k : Snapshot → Result) :
    withSnapshot i s k = .next (raiseFault .noSample i.opcode s) := by simp [withSnapshot, hv]

theorem withBus_wf {s t : State} (h : s.cfg.wf = true) : withBus s t = .next t := by simp [withBus, h]

theorem withBus_next {s t u : State} (h : withBus s t = .next u) : s.cfg.wf = true ∧ u = t := by
  unfold withBus at h
  cases hw : s.cfg.wf <;> simp [hw] at h
  exact ⟨rfl, h.symm⟩

end Sys2Proof.Machine
end

