-- ==== Sys2Proof/Laws/Exec.lean ====
section
/-! SUPPORT. What each command can do when it answers a next state, said once per command (an inversion lemma each), and the
fields of the two states that BEGIN and POLL build. -/

namespace Sys2Proof.Machine

variable (s : State) (c : Calibration)

/-! ### The states between BEGIN's reads (R110) -/

@[simp] theorem afterIdentity_cfg : (afterIdentity s).cfg = s.cfg := rfl
@[simp] theorem afterIdentity_cal : (afterIdentity s).cal = s.cal := rfl
@[simp] theorem afterIdentity_snap : (afterIdentity s).snap = s.snap := rfl
@[simp] theorem afterIdentity_calOffset : (afterIdentity s).calOffset = s.calOffset := rfl
@[simp] theorem afterIdentity_arg : (afterIdentity s).arg = s.arg := rfl
@[simp] theorem afterIdentity_result : (afterIdentity s).result = s.result := rfl
@[simp] theorem afterIdentity_status : (afterIdentity s).status = s.status := rfl
@[simp] theorem afterIdentity_nanDraws : (afterIdentity s).nanDraws = s.nanDraws := rfl
@[simp] theorem afterIdentity_host : (afterIdentity s).host = s.host := rfl
@[simp] theorem afterIdentity_replies : (afterIdentity s).replies = s.replies := rfl
@[simp] theorem afterIdentity_busLog : (afterIdentity s).busLog = s.busLog ++ [.memRead s.cfg.idReg 1 (busBytes s 1)] := rfl
@[simp] theorem afterIdentity_sensor : (afterIdentity s).sensor = s.sensor.drop 1 := rfl

/-- The identity read returns the one byte that BEGIN compares (R110). -/
theorem busBytes_one : busBytes s 1 = [identityByte s] := by
  have := busBytes_length s 1
  match h : busBytes s 1 with
  | [x] => simp [identityByte, h]
  | [] => simp [h] at this
  | _ :: _ :: _ => simp [h] at this

@[simp] theorem calBytes1_length : (calBytes1 s).length = s.cfg.cal1Len := busBytes_length _ _
@[simp] theorem calBytes2_length : (calBytes2 s).length = s.cfg.cal2Len := busBytes_length _ _
@[simp] theorem rawBytes_length : (rawBytes s).length = s.cfg.dataLen := busBytes_length _ _

/-! ### The fields of BEGIN's loaded state (R110) -/

@[simp] theorem loadCalibration_cfg : (loadCalibration s).cfg = s.cfg := rfl
@[simp] theorem loadCalibration_cal : (loadCalibration s).cal = some (decodeCal (calBytes1 s) (calBytes2 s)) := rfl
@[simp] theorem loadCalibration_snap : (loadCalibration s).snap = s.snap := rfl
@[simp] theorem loadCalibration_calOffset : (loadCalibration s).calOffset = s.calOffset := rfl
@[simp] theorem loadCalibration_arg : (loadCalibration s).arg = s.arg := rfl
@[simp] theorem loadCalibration_result : (loadCalibration s).result = 1 := rfl
@[simp] theorem loadCalibration_status : (loadCalibration s).status = withCalValid s.status true := rfl
@[simp] theorem loadCalibration_busLog : (loadCalibration s).busLog = s.busLog ++ [.memRead s.cfg.idReg 1 (busBytes s 1)] ++ [.memRead s.cfg.cal1Addr s.cfg.cal1Len (calBytes1 s)]
      ++ [.memRead s.cfg.cal2Addr s.cfg.cal2Len (calBytes2 s)] := rfl
@[simp] theorem loadCalibration_sensor : (loadCalibration s).sensor = ((s.sensor.drop 1).drop s.cfg.cal1Len).drop s.cfg.cal2Len := rfl
@[simp] theorem loadCalibration_nanDraws : (loadCalibration s).nanDraws = s.nanDraws := rfl
@[simp] theorem loadCalibration_host : (loadCalibration s).host = s.host := rfl
@[simp] theorem loadCalibration_replies : (loadCalibration s).replies = s.replies := rfl

/-! ### The fields of POLL's sampled state (R215) -/

@[simp] theorem sample_cfg : (sample c s).cfg = s.cfg := rfl
@[simp] theorem sample_cal : (sample c s).cal = s.cal := rfl
@[simp] theorem sample_snap : (sample c s).snap = some (compensate s.nans (rawBytes s) c s.calOffset) := rfl
@[simp] theorem sample_calOffset : (sample c s).calOffset = s.calOffset := rfl
@[simp] theorem sample_arg : (sample c s).arg = s.arg := rfl
@[simp] theorem sample_result : (sample c s).result = s.result := rfl
@[simp] theorem sample_status : (sample c s).status = withSampleValid (withPUnav s.status (pressureUnavailable (rawBytes s) c)) true := rfl
@[simp] theorem sample_busLog : (sample c s).busLog = s.busLog ++ [.memRead s.cfg.dataAddr s.cfg.dataLen (rawBytes s)] := rfl
@[simp] theorem sample_sensor : (sample c s).sensor = s.sensor.drop s.cfg.dataLen := rfl
@[simp] theorem sample_nanDraws : (sample c s).nanDraws = s.nanDraws + pollOps := rfl
@[simp] theorem sample_host : (sample c s).host = s.host := rfl
@[simp] theorem sample_replies : (sample c s).replies = s.replies := rfl

/-! ### One inversion lemma per command -/

variable {s} {t : State}

theorem execBegin_next (h : execBegin s = .next t) :
    (calValid s.status = true ∧ t = raiseFault .reinit Instr.begin.opcode s) ∨
    (calValid s.status = false ∧ s.cfg.wf = true ∧ identityByte s = s.cfg.idVal ∧ t = loadCalibration s) ∨
    (calValid s.status = false ∧ s.cfg.wf = true ∧ identityByte s ≠ s.cfg.idVal ∧ t = (afterIdentity s).setResult 0) := by
  unfold execBegin at h
  cases hv : calValid s.status
  · rw [hv, if_neg (by decide)] at h
    obtain ⟨hw, rfl⟩ := withBus_next h
    by_cases hi : identityByte s = s.cfg.idVal <;> simp [identify, hi, hw]
  · rw [hv, if_pos rfl] at h
    cases h
    exact .inl ⟨rfl, rfl⟩

theorem execSetTempCal_next (h : execSetTempCal s = .next t) : t = s.setCalOffset (floatOperand s) := by
  cases h; rfl

theorem execPoll_next (h : execPoll s = .next t) :
    (calValid s.status = false ∧ t = raiseFault .noCal Instr.poll.opcode s) ∨
    (∃ c, calValid s.status = true ∧ s.cal = some c ∧ s.cfg.wf = true ∧ t = sample c s) := by
  unfold execPoll at h
  obtain ⟨c, hv, hc, e⟩ | ⟨-, -, e⟩ | ⟨hv, e⟩ := withCalibration_cases .poll s fun c => withBus s (sample c s)
  · rw [e] at h
    obtain ⟨hw, rfl⟩ := withBus_next h
    exact .inr ⟨c, hv, hc, hw, rfl⟩
  · rw [e] at h; cases h
  · rw [e] at h; cases h; exact .inl ⟨hv, rfl⟩

theorem execGetCal_next (h : execGetCal s = .next t) :
    (calValid s.status = false ∧ t = raiseFault .noCal Instr.getCal.opcode s) ∨
    (∃ c v, calValid s.status = true ∧ s.cal = some c ∧ coefficient c (indexOperand s) = some v ∧
      t = s.setResult (BitVec.ofInt 64 v)) ∨
    (∃ c, calValid s.status = true ∧ s.cal = some c ∧ coefficient c (indexOperand s) = none ∧
      t = raiseFault .operand Instr.getCal.opcode s) := by
  unfold execGetCal withCalibration at h
  cases hv : calValid s.status
  · simp only [hv, Bool.false_eq_true, if_false] at h
    cases h; exact .inl ⟨rfl, rfl⟩
  · simp only [hv, if_true] at h
    cases hc : s.cal with
    | none => simp only [hc] at h; cases h
    | some c =>
      simp only [hc] at h
      cases hi : coefficient c (indexOperand s) with
      | some v => simp only [hi] at h; cases h; exact .inr (.inl ⟨c, v, rfl, rfl, hi, rfl⟩)
      | none => simp only [hi] at h; cases h; exact .inr (.inr ⟨c, rfl, rfl, hi, rfl⟩)

/-- The four accessors that answer one value of the snapshot. -/
theorem withSnapshot_next {i : Instr} {k : Snapshot → State} (h : withSnapshot i s (fun m => .next (k m)) = .next t) :
    (sampleValid s.status = false ∧ t = raiseFault .noSample i.opcode s) ∨
    (∃ m, sampleValid s.status = true ∧ s.snap = some m ∧ t = k m) := by
  obtain ⟨m, hv, hm, e⟩ | ⟨-, -, e⟩ | ⟨hv, e⟩ := withSnapshot_cases i s fun m => Host.Outcome.next (k m)
  · rw [e] at h; cases h; exact .inr ⟨m, hv, hm, rfl⟩
  · rw [e] at h; cases h
  · rw [e] at h; cases h; exact .inl ⟨hv, rfl⟩

theorem execGetTempC_next (h : execGetTempC s = .next t) :
    (sampleValid s.status = false ∧ t = raiseFault .noSample Instr.getTempC.opcode s) ∨
    (∃ m, sampleValid s.status = true ∧ s.snap = some m ∧ t = s.setResult (bits64 m.tempC)) := withSnapshot_next h

theorem execGetTempF_next (h : execGetTempF s = .next t) :
    (sampleValid s.status = false ∧ t = raiseFault .noSample Instr.getTempF.opcode s) ∨
    (∃ m, sampleValid s.status = true ∧ s.snap = some m ∧
      t = (s.setResult (bits64 (toF s.nans m.tempC))).drawNaNs 3) := withSnapshot_next h

theorem execGetHum_next (h : execGetHum s = .next t) :
    (sampleValid s.status = false ∧ t = raiseFault .noSample Instr.getHum.opcode s) ∨
    (∃ m, sampleValid s.status = true ∧ s.snap = some m ∧ t = s.setResult (bits64 m.hum)) := withSnapshot_next h

theorem execGetPress_next (h : execGetPress s = .next t) :
    (sampleValid s.status = false ∧ t = raiseFault .noSample Instr.getPress.opcode s) ∨
    (∃ m, sampleValid s.status = true ∧ s.snap = some m ∧ t = s.setResult (bits64 m.pressPa)) := withSnapshot_next h

theorem execGetAlt_next (h : execGetAlt s = .next t) :
    (sampleValid s.status = false ∧ t = raiseFault .noSample Instr.getAlt.opcode s) ∨
    (∃ m, sampleValid s.status = true ∧ s.snap = some m ∧ feq (floatOperand s) (f64 0) = true ∧
      t = raiseFault .altP0Zero Instr.getAlt.opcode s) ∨
    (∃ m, sampleValid s.status = true ∧ s.snap = some m ∧ feq (floatOperand s) (f64 0) = false ∧
      t = (s.setResult (bits64 (alt Config.POW s.nans m.pressPa (floatOperand s)))).drawNaNs altOps) := by
  unfold execGetAlt at h
  cases hz : feq (floatOperand s) (f64 0) <;> simp only [hz, Bool.false_eq_true, if_false, if_true] at h
  · obtain h | ⟨m, hv, hm, rfl⟩ := withSnapshot_next h
    · exact .inl h
    · exact .inr (.inr ⟨m, hv, hm, rfl, rfl⟩)
  · obtain h | ⟨m, hv, hm, rfl⟩ := withSnapshot_next (k := fun _ => raiseFault .altP0Zero Instr.getAlt.opcode s) h
    · exact .inl h
    · exact .inr (.inl ⟨m, hv, hm, rfl, rfl⟩)

theorem execGetDewPt_next (h : execGetDewPt s = .next t) :
    (sampleValid s.status = false ∧ t = raiseFault .noSample Instr.getDewPt.opcode s) ∨
    (∃ m, sampleValid s.status = true ∧ s.snap = some m ∧
      t = ((s.setResult (bits64 (dewOf s m).1)).setStatus (withDewUnav s.status (dewOf s m).2)).drawNaNs dewOps) :=
  withSnapshot_next h

/-! ### All commands at once -/

/-- Everything a command can do when it answers a next state. -/
theorem exec_next {i : Instr} (h : exec i s = .next t) :
    (∃ c, t = raiseFault c i.opcode s) ∨
    (i = .begin ∧ s.cfg.wf = true ∧ calValid s.status = false ∧ identityByte s = s.cfg.idVal ∧ t = loadCalibration s) ∨
    (i = .begin ∧ s.cfg.wf = true ∧ calValid s.status = false ∧ identityByte s ≠ s.cfg.idVal ∧
      t = (afterIdentity s).setResult 0) ∨
    (i = .setTempCal ∧ t = s.setCalOffset (floatOperand s)) ∨
    (i = .poll ∧ ∃ c, calValid s.status = true ∧ s.cal = some c ∧ s.cfg.wf = true ∧ t = sample c s) ∨
    (i = .getDewPt ∧ ∃ m, sampleValid s.status = true ∧ s.snap = some m ∧
      t = ((s.setResult (bits64 (dewOf s m).1)).setStatus (withDewUnav s.status (dewOf s m).2)).drawNaNs dewOps) ∨
    (i ≠ .setTempCal ∧ i ≠ .poll ∧ ∃ v n, t = (s.setResult v).drawNaNs n) := by
  have value : ∀ {v n}, i ≠ .setTempCal → i ≠ .poll → t = (s.setResult v).drawNaNs n →
      (i ≠ .setTempCal ∧ i ≠ .poll ∧ ∃ v n, t = (s.setResult v).drawNaNs n) := fun h1 h2 h => ⟨h1, h2, _, _, h⟩
  have none : ∀ v, s.setResult v = (s.setResult v).drawNaNs 0 := fun v => rfl
  cases i <;> simp only [exec] at h
  case begin =>
    obtain ⟨-, rfl⟩ | h | h := execBegin_next h
    · exact .inl ⟨_, rfl⟩
    · simp [h]
    · simp [h]
  case poll =>
    obtain ⟨-, rfl⟩ | ⟨c, hv, hc, hw, rfl⟩ := execPoll_next h
    · exact .inl ⟨_, rfl⟩
    · simp [hv, hc, hw]
  case setTempCal => cases execSetTempCal_next h; simp
  case getTempC =>
    obtain ⟨-, rfl⟩ | ⟨m, -, -, rfl⟩ := execGetTempC_next h
    · exact .inl ⟨_, rfl⟩
    · exact .inr (.inr (.inr (.inr (.inr (.inr (value (by decide) (by decide) (none _)))))))
  case getTempF =>
    obtain ⟨-, rfl⟩ | ⟨m, -, -, rfl⟩ := execGetTempF_next h
    · exact .inl ⟨_, rfl⟩
    · exact .inr (.inr (.inr (.inr (.inr (.inr (value (by decide) (by decide) rfl))))))
  case getHum =>
    obtain ⟨-, rfl⟩ | ⟨m, -, -, rfl⟩ := execGetHum_next h
    · exact .inl ⟨_, rfl⟩
    · exact .inr (.inr (.inr (.inr (.inr (.inr (value (by decide) (by decide) (none _)))))))
  case getPress =>
    obtain ⟨-, rfl⟩ | ⟨m, -, -, rfl⟩ := execGetPress_next h
    · exact .inl ⟨_, rfl⟩
    · exact .inr (.inr (.inr (.inr (.inr (.inr (value (by decide) (by decide) (none _)))))))
  case getAlt =>
    obtain ⟨-, rfl⟩ | ⟨m, -, -, -, rfl⟩ | ⟨m, -, -, -, rfl⟩ := execGetAlt_next h
    · exact .inl ⟨_, rfl⟩
    · exact .inl ⟨_, rfl⟩
    · exact .inr (.inr (.inr (.inr (.inr (.inr (value (by decide) (by decide) rfl))))))
  case getDewPt =>
    obtain ⟨-, rfl⟩ | ⟨m, hv, hm, rfl⟩ := execGetDewPt_next h
    · exact .inl ⟨_, rfl⟩
    · exact .inr (.inr (.inr (.inr (.inr (.inl ⟨rfl, m, hv, hm, rfl⟩)))))
  case getCal =>
    obtain ⟨-, rfl⟩ | ⟨c, v, -, -, -, rfl⟩ | ⟨c, -, -, -, rfl⟩ := execGetCal_next h
    · exact .inl ⟨_, rfl⟩
    · exact .inr (.inr (.inr (.inr (.inr (.inr (value (by decide) (by decide) (none _)))))))
    · exact .inl ⟨_, rfl⟩

/-! ### When a command stops -/

theorem withCalibration_fault {i : Instr} {k : Calibration → Result} {r : Fault}
    (h : withCalibration i s k = .fault r) :
    (calValid s.status = true ∧ s.cal = none) ∨ ∃ c, s.cal = some c ∧ k c = .fault r := by
  obtain ⟨c, -, hc, e⟩ | ⟨hv, hc, -⟩ | ⟨-, e⟩ := withCalibration_cases i s k
  · exact .inr ⟨c, hc, e ▸ h⟩
  · exact .inl ⟨hv, hc⟩
  · rw [e] at h; cases h

theorem withSnapshot_fault {i : Instr} {k : Snapshot → Result} {r : Fault} (h : withSnapshot i s k = .fault r) :
    (sampleValid s.status = true ∧ s.snap = none) ∨ ∃ m, s.snap = some m ∧ k m = .fault r := by
  obtain ⟨m, -, hm, e⟩ | ⟨hv, hm, -⟩ | ⟨-, e⟩ := withSnapshot_cases i s k
  · exact .inr ⟨m, hm, e ▸ h⟩
  · exact .inl ⟨hv, hm⟩
  · rw [e] at h; cases h

/-- A command stops with a fault only where a gate bit speaks of an absent register (log 7). -/
theorem exec_fault {i : Instr} {r : Fault} (h : exec i s = .fault r) :
    (calValid s.status = true ∧ s.cal = none) ∨ (sampleValid s.status = true ∧ s.snap = none) := by
  cases i <;> simp only [exec] at h
  case begin => unfold execBegin withBus at h; split_ifs at h
  case setTempCal => cases h
  case poll =>
    obtain h | ⟨c, -, h⟩ := withCalibration_fault h
    · exact .inl h
    · unfold withBus at h; split_ifs at h
  case getCal =>
    obtain h | ⟨c, -, h⟩ := withCalibration_fault h
    · exact .inl h
    · split at h <;> cases h
  case getAlt =>
    obtain h | ⟨m, -, h⟩ := withSnapshot_fault h
    · exact .inr h
    · split_ifs at h
  all_goals
    obtain h | ⟨m, -, h⟩ := withSnapshot_fault h
    · exact .inr h
    · cases h

theorem withCalibration_refused {i : Instr} {k : Calibration → Result} {r : Refusal}
    (h : withCalibration i s k = .refused r) : ∃ c, k c = .refused r := by
  obtain ⟨c, -, -, e⟩ | ⟨-, -, e⟩ | ⟨-, e⟩ := withCalibration_cases i s k
  · exact ⟨c, e ▸ h⟩
  · rw [e] at h; cases h
  · rw [e] at h; cases h

theorem withSnapshot_refused {i : Instr} {k : Snapshot → Result} {r : Refusal} (h : withSnapshot i s k = .refused r) :
    ∃ m, k m = .refused r := by
  obtain ⟨m, -, -, e⟩ | ⟨-, -, e⟩ | ⟨-, e⟩ := withSnapshot_cases i s k
  · exact ⟨m, e ▸ h⟩
  · rw [e] at h; cases h
  · rw [e] at h; cases h

/-- A command is refused only under an ill-formed configuration (R52). -/
theorem exec_refused {i : Instr} {r : Refusal} (h : exec i s = .refused r) :
    s.cfg.wf = false ∧ r = .illFormedConfig := by
  have bus : ∀ u, withBus s u = .refused r → s.cfg.wf = false ∧ r = .illFormedConfig := fun u hu => by
    unfold withBus at hu
    cases hw : s.cfg.wf <;> simp [hw] at hu
    exact ⟨rfl, hu.symm⟩
  cases i <;> simp only [exec] at h
  case begin => unfold execBegin at h; split_ifs at h; exact bus _ h
  case setTempCal => cases h
  case poll => obtain ⟨c, h⟩ := withCalibration_refused h; exact bus _ h
  case getCal => obtain ⟨c, h⟩ := withCalibration_refused h; split at h <;> cases h
  case getAlt => obtain ⟨m, h⟩ := withSnapshot_refused h; split_ifs at h
  all_goals (obtain ⟨m, h⟩ := withSnapshot_refused h; cases h)

end Sys2Proof.Machine
end

