-- ==== Sys2Proof/Laws/Float64.lean ====
section
/-! SUPPORT. The binary64 arithmetic of Machine/Float64.lean: encodings, the grid, when rounding is exact, magnitude bounds. -/

namespace Sys2Proof.Machine

/-! ### Encodings -/

theorem fMag_lt (x : F64) : fMag x < 2 ^ 63 := Nat.mod_lt _ (by positivity)

theorem mkF64_toNat (neg : Bool) (mag : Nat) (h : mag < 2 ^ 63) :
    (mkF64 neg mag).toNat = if neg then 2 ^ 63 + mag else mag := by
  rw [mkF64, BitVec.toNat_ofNat, Nat.mod_eq_of_lt]
  cases neg <;> simp <;> omega

theorem fMag_mkF64 (neg : Bool) (mag : Nat) (h : mag < 2 ^ 63) : fMag (mkF64 neg mag) = mag := by
  rw [fMag, mkF64_toNat neg mag h]; cases neg <;> simp <;> omega

theorem fNeg_eq (x : F64) : fNeg x = decide (2 ^ 63 ≤ x.toNat) := by
  have : x.toNat < 2 ^ 64 := x.isLt
  rw [fNeg, BitVec.getLsbD, Nat.testBit_eq_decide_div_mod_eq, decide_eq_decide]
  omega

theorem fNeg_mkF64 (neg : Bool) (mag : Nat) (h : mag < 2 ^ 63) : fNeg (mkF64 neg mag) = neg := by
  rw [fNeg_eq, mkF64_toNat neg mag h]; cases neg <;> simp
  omega

theorem mkF64_fMag (x : F64) : mkF64 (fNeg x) (fMag x) = x := by
  apply BitVec.eq_of_toNat_eq
  rw [mkF64_toNat _ _ (fMag_lt x), fNeg_eq, fMag]
  have : x.toNat < 2 ^ 64 := x.isLt
  by_cases h : 2 ^ 63 ≤ x.toNat <;> simp only [h, decide_true, decide_false, if_true] <;> simp <;> omega

theorem f64_ext {x y : F64} (hn : fNeg x = fNeg y) (hm : fMag x = fMag y) : x = y := by
  rw [← mkF64_fMag x, ← mkF64_fMag y, hn, hm]

theorem infMag_lt : infMag < 2 ^ 63 := by decide

theorem roundMag_le_infMag (num den : Nat) : roundMag num den ≤ infMag := Nat.min_le_left _ _

theorem roundMag_lt (num den : Nat) : roundMag num den < 2 ^ 63 :=
  Nat.lt_of_le_of_lt (roundMag_le_infMag _ _) infMag_lt

theorem isNaN_mkF64_of_le (neg : Bool) {mag : Nat} (h : mag ≤ infMag) : isNaN (mkF64 neg mag) = false := by
  rw [isNaN, fMag_mkF64 _ _ (Nat.lt_of_le_of_lt h infMag_lt)]; simpa using h

@[simp] theorem fMag_fNegate (x : F64) : fMag (fNegate x) = fMag x := fMag_mkF64 _ _ (fMag_lt x)
@[simp] theorem fNeg_fNegate (x : F64) : fNeg (fNegate x) = !fNeg x := fNeg_mkF64 _ _ (fMag_lt x)
@[simp] theorem isNaN_fNegate (x : F64) : isNaN (fNegate x) = isNaN x := by simp [isNaN]
@[simp] theorem isInf_fNegate (x : F64) : isInf (fNegate x) = isInf x := by simp [isInf]
@[simp] theorem isFinite_fNegate (x : F64) : isFinite (fNegate x) = isFinite x := by simp [isFinite]
@[simp] theorem fGrid_fNegate (x : F64) : fGrid (fNegate x) = -fGrid x := by cases h : fNeg x <;> simp [fGrid, h]

theorem isFinite_iff (x : F64) : isFinite x = true ↔ isNaN x = false ∧ isInf x = false := by
  simp only [isFinite, isNaN, isInf, decide_eq_true_eq, decide_eq_false_iff_not, beq_eq_false_iff_ne]; omega

/-! ### NaN draws -/

@[simp] theorem isNaN_asNaN (w : F64) : isNaN (asNaN w) = true := by
  unfold asNaN; split
  · assumption
  · decide

/-- Every NaN encoding can be drawn (D40). -/
theorem asNaN_of_isNaN {w : F64} (h : isNaN w = true) : asNaN w = w := by simp [asNaN, h]

@[simp] theorem isNaN_nanDraw (k : Nat) : isNaN (nanDraw k) = true := isNaN_asNaN _

@[simp] theorem isNaN_nans (s : State) (k : Nat) : isNaN (s.nans k) = true := isNaN_asNaN _

/-! ### The grid -/

/-- A magnitude is an exponent step and a significand. -/
theorem gridMag_step (k r : Nat) (hr : r ≤ 2 ^ 53) (h : k = 0 ∨ 2 ^ 52 ≤ r) :
    gridMag (k * 2 ^ 52 + r) = r * 2 ^ k := by
  unfold gridMag
  rcases Nat.lt_or_ge r (2 ^ 52) with h1 | h1
  · have hk : k = 0 := by omega
    subst hk
    rw [if_pos (by omega)]; simp; omega
  · rcases Nat.lt_or_ge r (2 ^ 53) with h2 | h2
    · have hd : (k * 2 ^ 52 + r) / 2 ^ 52 = k + 1 := by omega
      have hm : (k * 2 ^ 52 + r) % 2 ^ 52 = r - 2 ^ 52 := by omega
      rw [hd, hm, if_neg (by omega), Nat.add_sub_cancel, Nat.add_sub_cancel' h1]
    · have hr' : r = 2 ^ 53 := by omega
      have hd : (k * 2 ^ 52 + r) / 2 ^ 52 = k + 2 := by omega
      have hm : (k * 2 ^ 52 + r) % 2 ^ 52 = 0 := by omega
      rw [hd, hm, if_neg (by omega), hr', show k + 2 - 1 = k + 1 by omega, Nat.pow_succ 2 k]
      omega

/-- Every magnitude has such a form, with a significand below 2^53. -/
theorem exists_step (m : Nat) : ∃ k r, m = k * 2 ^ 52 + r ∧ r < 2 ^ 53 ∧ (k = 0 ∨ 2 ^ 52 ≤ r) := by
  rcases Nat.lt_or_ge m (2 ^ 52) with h | h
  · exact ⟨0, m, by omega, by omega, .inl rfl⟩
  · exact ⟨m / 2 ^ 52 - 1, 2 ^ 52 + m % 2 ^ 52, by omega, by omega, .inr (by omega)⟩

theorem gridMag_lt_succ (m : Nat) : gridMag m < gridMag (m + 1) := by
  obtain ⟨k, r, rfl, hr, h⟩ := exists_step m
  rw [Nat.add_assoc, gridMag_step k r (by omega) h, gridMag_step k (r + 1) (by omega) (by omega)]
  exact Nat.mul_lt_mul_of_pos_right (Nat.lt_succ_self r) (by positivity)

theorem gridMag_strictMono : StrictMono gridMag := strictMono_nat_of_lt_succ gridMag_lt_succ

theorem gridMag_zero : gridMag 0 = 0 := by decide

theorem gridMag_pos {m : Nat} (h : 0 < m) : 0 < gridMag m := by
  have := gridMag_strictMono h; omega

/-! ### Rounding -/

theorem roundNearestEven_exact (a : Nat) {d : Nat} (h : 0 < d) : roundNearestEven (a * d) d = a := by
  simp [roundNearestEven, Nat.mul_div_cancel _ h, h]

/-- A representable value is not changed by rounding. -/
theorem roundMag_exact {m den : Nat} (hm : m ≤ infMag) (hd : 0 < den) : roundMag (gridMag m * den) den = m := by
  obtain ⟨k, r, rfl, hr, h⟩ := exists_step m
  have hs : Nat.log2 (r * 2 ^ k) - 52 = k := by
    rcases Nat.lt_or_ge r (2 ^ 52) with h1 | h1
    · have hk : k = 0 := by omega
      subst hk
      rcases Nat.eq_zero_or_pos r with h0 | h0
      · subst h0; decide
      · have := (Nat.log2_lt (n := r) (k := 52) (by omega)).2 h1
        simp; omega
    · have h2 : (r * 2 ^ k).log2 = 52 + k := by
        rw [Nat.log2_eq_iff (by positivity)]
        constructor
        · rw [Nat.pow_add]; exact Nat.mul_le_mul_right _ h1
        · rw [show 52 + k + 1 = 53 + k by omega, Nat.pow_add]
          exact Nat.mul_lt_mul_of_pos_right hr (by positivity)
      omega
  rw [roundMag, gridMag_step k r (by omega) h, Nat.mul_div_cancel _ hd, hs,
    show r * 2 ^ k * den = r * (den * 2 ^ k) by ring, roundNearestEven_exact _ (by positivity)]
  exact Nat.min_eq_right hm

theorem roundNearestEven_le {num den b : Nat} (h : num ≤ b * den) (hd : 0 < den) : roundNearestEven num den ≤ b := by
  have hq : num / den ≤ b := Nat.div_le_of_le_mul (by rwa [Nat.mul_comm])
  have hdm := Nat.div_add_mod num den
  unfold roundNearestEven
  rcases Nat.lt_or_ge (num / den) b with h1 | h1
  · simp only; split_ifs <;> omega
  · have hqb : num / den = b := by omega
    have hmod : num % den = 0 := by
      rw [hqb] at hdm; have : den * b = b * den := Nat.mul_comm _ _; omega
    simp [hmod, hd, hqb]

/-- The magnitude bits of `2^k` units of 2^-1074, for `52 ≤ k`. -/
def magPow (k : Nat) : Nat := (k - 52) * 2 ^ 52 + 2 ^ 52

theorem gridMag_magPow {k : Nat} (h : 52 ≤ k) : gridMag (magPow k) = 2 ^ k := by
  rw [magPow, gridMag_step _ _ (by omega) (.inr (Nat.le_refl _)), ← Nat.pow_add]; congr 1; omega

/-- Rounding does not pass a power of two. -/
theorem roundMag_le_magPow {num den k : Nat} (hk : 52 ≤ k) (hd : 0 < den) (h : num ≤ 2 ^ k * den) :
    roundMag num den ≤ magPow k := by
  refine Nat.le_trans (Nat.min_le_right _ _) ?_
  have hq : num / den ≤ 2 ^ k := Nat.div_le_of_le_mul (by rwa [Nat.mul_comm])
  have hb : num < (num / den + 1) * den := by
    have := Nat.lt_div_mul_add (a := num) hd; rw [Nat.add_mul, Nat.one_mul]; exact this
  generalize hQ : num / den = q at *
  rcases Nat.lt_or_ge q (2 ^ k) with h1 | h1
  · rcases Nat.lt_or_ge q (2 ^ 52) with h2 | h2
    · have hs : q.log2 - 52 = 0 := by
        rcases Nat.eq_zero_or_pos q with h0 | h0
        · subst h0; decide
        · have := (Nat.log2_lt (n := q) (k := 52) (by omega)).2 h2; omega
      have := roundNearestEven_le (b := 2 ^ 52) (num := num) (den := den)
        (Nat.le_trans hb.le (Nat.mul_le_mul_right _ h2)) hd
      rw [hs]; simp only [magPow, Nat.pow_zero, Nat.mul_one]; omega
    · have hpos : q ≠ 0 := by omega
      have hl1 : 2 ^ q.log2 ≤ q := Nat.log2_self_le hpos
      have hl2 : q < 2 ^ (q.log2 + 1) := Nat.lt_log2_self
      have hlk : q.log2 < k := (Nat.log2_lt hpos).2 h1
      have hl52 : 52 ≤ q.log2 := (Nat.le_log2 hpos).2 h2
      have hr := roundNearestEven_le (b := 2 ^ 53) (num := num) (den := den * 2 ^ (q.log2 - 52))
        (by
          refine Nat.le_trans hb.le ?_
          have e : 2 ^ 53 * (den * 2 ^ (q.log2 - 52)) = 2 ^ (q.log2 + 1) * den := by
            rw [show q.log2 + 1 = 53 + (q.log2 - 52) by omega, Nat.pow_add]; ring
          rw [e]; exact Nat.mul_le_mul_right _ hl2)
        (by positivity)
      simp only [magPow]; omega
  · have hqk : q = 2 ^ k := by omega
    have hnum : num = 2 ^ k * den := by
      have := Nat.div_mul_le_self num den; rw [hQ, hqk] at this; omega
    rw [hqk, Nat.log2_two_pow]
    have hr := roundNearestEven_le (b := 2 ^ 52) (num := num) (den := den * 2 ^ (k - 52))
      (by rw [hnum, show 2 ^ 52 * (den * 2 ^ (k - 52)) = 2 ^ 52 * 2 ^ (k - 52) * den by ring, ← Nat.pow_add,
            show 52 + (k - 52) = k by omega])
      (by positivity)
    simp only [magPow]; omega

/-! ### Finite results -/

theorem isFinite_mkF64 (neg : Bool) {mag : Nat} (h : mag < infMag) : isFinite (mkF64 neg mag) = true := by
  rw [isFinite, fMag_mkF64 _ _ (Nat.lt_trans h infMag_lt)]; simpa using h

theorem fGrid_mkF64 (neg : Bool) {mag : Nat} (h : mag ≤ infMag) :
    fGrid (mkF64 neg mag) = if neg then -(gridMag mag : Int) else gridMag mag := by
  have := Nat.lt_of_le_of_lt h infMag_lt
  rw [fGrid, fNeg_mkF64 _ _ this, fMag_mkF64 _ _ this]

theorem fGrid_natAbs (x : F64) : (fGrid x).natAbs = gridMag (fMag x) := by
  cases h : fNeg x <;> simp [fGrid, h]

theorem gridExp_eq : gridExp = 1074 := by unfold gridExp; rfl

theorem gridOne_pos : 0 < gridOne := by
  unfold gridOne; positivity

/-- Every integer below 2^53 is a binary64. -/
theorem exists_mag_of_lt {a : Nat} (h : a < 2 ^ 53) : ∃ m, m < infMag ∧ gridMag m = a * gridOne := by
  rcases Nat.eq_zero_or_pos a with h0 | h0
  · exact ⟨0, by decide, by rw [h0, gridMag_zero, Nat.zero_mul]⟩
  · have hl : a.log2 < 53 := (Nat.log2_lt (by omega)).2 h
    have hl1 : 2 ^ a.log2 ≤ a := Nat.log2_self_le (by omega)
    have hl2 : a < 2 ^ (a.log2 + 1) := Nat.lt_log2_self
    have e : (2 : Nat) ^ 52 = 2 ^ a.log2 * 2 ^ (52 - a.log2) := by rw [← Nat.pow_add]; congr 1; omega
    have hr1 : 2 ^ 52 ≤ a * 2 ^ (52 - a.log2) := by rw [e]; exact Nat.mul_le_mul_right _ hl1
    have hr2 : a * 2 ^ (52 - a.log2) < 2 ^ 53 := by
      rw [show 2 ^ 53 = 2 ^ (a.log2 + 1) * 2 ^ (52 - a.log2) by rw [← Nat.pow_add]; congr 1; omega]
      exact Nat.mul_lt_mul_of_pos_right hl2 (by positivity)
    have he := gridExp_eq
    refine ⟨(1022 + a.log2) * 2 ^ 52 + a * 2 ^ (52 - a.log2), by simp only [infMag]; omega, ?_⟩
    rw [gridMag_step _ _ hr2.le (.inr hr1), Nat.mul_assoc, ← Nat.pow_add, gridOne,
      show 52 - a.log2 + (1022 + a.log2) = gridExp by omega]

/-- The rounding of an integer below 2^53 is that integer (R14: `i2f` is exact). -/
theorem gridMag_roundMag_int {a : Nat} (h : a < 2 ^ 53) :
    roundMag (a * gridOne) 1 < infMag ∧ gridMag (roundMag (a * gridOne) 1) = a * gridOne := by
  obtain ⟨m, hm, hg⟩ := exists_mag_of_lt h
  have := roundMag_exact hm.le Nat.one_pos
  rw [Nat.mul_one, hg] at this
  rw [this]; exact ⟨hm, hg⟩

theorem isFinite_i2f {n : Int} (h : n.natAbs < 2 ^ 53) : isFinite (i2f n) = true :=
  isFinite_mkF64 _ (gridMag_roundMag_int h).1

theorem fNeg_i2f (n : Int) : fNeg (i2f n) = decide (n < 0) := fNeg_mkF64 _ _ (roundMag_lt _ _)

theorem gridMag_i2f {n : Int} (h : n.natAbs < 2 ^ 53) : gridMag (fMag (i2f n)) = n.natAbs * gridOne := by
  rw [i2f, f64, fMag_mkF64 _ _ (roundMag_lt _ _), (gridMag_roundMag_int h).2]

/-- `i2f` is exact below 2^53 (R14). -/
theorem fGrid_i2f {n : Int} (h : n.natAbs < 2 ^ 53) : fGrid (i2f n) = n * gridOne := by
  rw [fGrid, fNeg_i2f, gridMag_i2f h]
  push_cast
  by_cases hn : n < 0
  · rw [decide_eq_true hn, if_pos rfl, abs_of_neg hn]; ring
  · rw [decide_eq_false hn, if_neg (by decide), abs_of_nonneg (by omega)]

/-! ### The operations on finite operands -/

theorem fadd_finite (nan : F64) {a b : F64} (ha : isFinite a = true) (hb : isFinite b = true) :
    fadd nan a b = if fGrid a + fGrid b = 0 then mkF64 (fNeg a && fNeg b) 0
      else mkF64 (decide (fGrid a + fGrid b < 0)) (roundMag (fGrid a + fGrid b).natAbs 1) := by
  obtain ⟨h1, h2⟩ := (isFinite_iff a).1 ha
  obtain ⟨h3, h4⟩ := (isFinite_iff b).1 hb
  simp [fadd, h1, h2, h3, h4]

theorem fmul_finite (nan : F64) {a b : F64} (ha : isFinite a = true) (hb : isFinite b = true) :
    fmul nan a b = mkF64 (fNeg a != fNeg b) (roundMag (gridMag (fMag a) * gridMag (fMag b)) gridOne) := by
  obtain ⟨h1, h2⟩ := (isFinite_iff a).1 ha
  obtain ⟨h3, h4⟩ := (isFinite_iff b).1 hb
  simp [fmul, h1, h2, h3, h4]

theorem fdiv_finite (nan : F64) {a b : F64} (ha : isFinite a = true) (hb : isFinite b = true) (hz : isZero b = false) :
    fdiv nan a b = mkF64 (fNeg a != fNeg b) (roundMag (gridMag (fMag a) * gridOne) (gridMag (fMag b))) := by
  obtain ⟨h1, h2⟩ := (isFinite_iff a).1 ha
  obtain ⟨h3, h4⟩ := (isFinite_iff b).1 hb
  simp [fdiv, h1, h2, h3, h4, hz]

/-! ### Magnitude bounds -/

/-- `|x| <= 2^k`. -/
def fBound (k : Nat) (x : F64) : Prop := fMag x ≤ magPow (1074 + k)

theorem magPow_lt_infMag {k : Nat} (hk : k ≤ 1023) : magPow (1074 + k) < infMag := by
  simp only [magPow, infMag]; omega

theorem magPow_mono {i j : Nat} (h : i ≤ j) : magPow i ≤ magPow j := by
  unfold magPow; exact Nat.add_le_add_right (Nat.mul_le_mul_right _ (by omega)) _

theorem fBound.finite {k : Nat} {x : F64} (h : fBound k x) (hk : k ≤ 1023) : isFinite x = true :=
  by rw [isFinite, decide_eq_true_eq]; exact Nat.lt_of_le_of_lt h (magPow_lt_infMag hk)

theorem fBound.mono {i j : Nat} {x : F64} (h : fBound i x) (hij : i ≤ j) : fBound j x :=
  Nat.le_trans h (magPow_mono (by omega))

theorem fBound_iff {k : Nat} (x : F64) : fBound k x ↔ gridMag (fMag x) ≤ 2 ^ (1074 + k) := by
  rw [fBound, ← gridMag_magPow (show 52 ≤ 1074 + k by omega), gridMag_strictMono.le_iff_le]

theorem fBound_round {k num den : Nat} (neg : Bool) (hd : 0 < den) (h : num ≤ 2 ^ (1074 + k) * den) :
    fBound k (mkF64 neg (roundMag num den)) := by
  rw [fBound, fMag_mkF64 _ _ (roundMag_lt _ _)]; exact roundMag_le_magPow (by omega) hd h

theorem fBound_i2f {k : Nat} {n : Int} (h : n.natAbs ≤ 2 ^ k) : fBound k (i2f n) :=
  fBound_round _ Nat.one_pos (by
    rw [Nat.mul_one, gridOne, ← gridExp_eq, Nat.pow_add, Nat.mul_comm]; exact Nat.mul_le_mul_left _ h)

theorem fBound_fadd {k : Nat} (nan : F64) {a b : F64} (ha : fBound k a) (hb : fBound k b) (hk : k ≤ 1022) :
    fBound (k + 1) (fadd nan a b) := by
  rw [fadd_finite nan (ha.finite (by omega)) (hb.finite (by omega))]
  split
  · rw [fBound, fMag_mkF64 _ _ (by decide)]; exact Nat.zero_le _
  · refine fBound_round _ Nat.one_pos ?_
    rw [fBound_iff, ← fGrid_natAbs] at ha hb
    have := Int.natAbs_add_le (fGrid a) (fGrid b)
    rw [Nat.mul_one, show 1074 + (k + 1) = 1074 + k + 1 by omega, Nat.pow_succ]; omega

theorem fBound_fNegate {k : Nat} {a : F64} (h : fBound k a) : fBound k (fNegate a) := by
  simpa [fBound] using h

theorem fBound_fsub {k : Nat} (nan : F64) {a b : F64} (ha : fBound k a) (hb : fBound k b) (hk : k ≤ 1022) :
    fBound (k + 1) (fsub nan a b) := fBound_fadd nan ha (fBound_fNegate hb) hk

theorem fBound_fmul {i j : Nat} (nan : F64) {a b : F64} (ha : fBound i a) (hb : fBound j b) (hk : i + j ≤ 1023) :
    fBound (i + j) (fmul nan a b) := by
  rw [fmul_finite nan (ha.finite (by omega)) (hb.finite (by omega))]
  refine fBound_round _ gridOne_pos ?_
  rw [fBound_iff] at ha hb
  refine Nat.le_trans (Nat.mul_le_mul ha hb) (le_of_eq ?_)
  rw [gridOne, ← gridExp_eq, ← Nat.pow_add, ← Nat.pow_add]; congr 1; omega

/-- Division by a finite value of magnitude at least 1 does not grow. -/
theorem fBound_fdiv {i : Nat} (nan : F64) {a b : F64} (ha : fBound i a) (hi : i ≤ 1023) (hb : isFinite b = true)
    (h1 : gridOne ≤ gridMag (fMag b)) : fBound i (fdiv nan a b) := by
  have hz : isZero b = false := by
    rw [isZero, beq_eq_false_iff_ne]; intro h
    rw [h, gridMag_zero] at h1; exact absurd gridOne_pos (by omega)
  rw [fdiv_finite nan (ha.finite hi) hb hz]
  refine fBound_round _ (by have := gridOne_pos; omega) ?_
  rw [fBound_iff] at ha
  exact Nat.mul_le_mul ha h1

/-! ### The order -/

theorem isNaN_eq_false_of_finite {x : F64} (h : isFinite x = true) : isNaN x = false := ((isFinite_iff x).1 h).1

/-- The two zeros. -/
theorem isZero_iff (x : F64) : isZero x = true ↔ x = 0#64 ∨ x = 0x8000000000000000#64 := by
  have : x.toNat < 2 ^ 64 := x.isLt
  rw [isZero, fMag, beq_iff_eq, ← BitVec.toNat_inj, ← BitVec.toNat_inj]
  simp; omega

theorem feq_zero (x : F64) : feq x (f64 0) = isZero x := by
  have h0 : f64 0 = 0#64 := by decide +kernel
  have hk : fKey (0#64) = 0 := by decide
  have hn : isNaN (0#64) = false := by decide
  rw [h0, feq, hn, hk, fKey, isZero, isNaN]
  rcases Nat.eq_zero_or_pos (fMag x) with h | h
  · simp [h, infMag]
  · have : ¬ (fMag x = 0) := by omega
    cases fNeg x <;> simp [this]

end Sys2Proof.Machine
end

