-- ==== Sys2Proof/Laws/PerInstr.lean ====
section
/-! SUPPORT. The family RoundTrip: what is said of every command as syntax, one lemma per constructor. -/

namespace Sys2Proof.Laws.RoundTrip

/-- The command is well formed, its word is its opcode under a clear reserved field, and the decoder reads it back. -/
def Statement (i : Instr) : Prop :=
  i.wf = true ∧ reservedClear (encode i) = true ∧ opcField (encode i) = i.opcode ∧ decode (encode i) = .ok i

theorem begin : Statement .begin := ⟨rfl, by decide, by decide, by decide⟩
theorem setTempCal : Statement .setTempCal := ⟨rfl, by decide, by decide, by decide⟩
theorem poll : Statement .poll := ⟨rfl, by decide, by decide, by decide⟩
theorem getTempC : Statement .getTempC := ⟨rfl, by decide, by decide, by decide⟩
theorem getTempF : Statement .getTempF := ⟨rfl, by decide, by decide, by decide⟩
theorem getHum : Statement .getHum := ⟨rfl, by decide, by decide, by decide⟩
theorem getPress : Statement .getPress := ⟨rfl, by decide, by decide, by decide⟩
theorem getAlt : Statement .getAlt := ⟨rfl, by decide, by decide, by decide⟩
theorem getDewPt : Statement .getDewPt := ⟨rfl, by decide, by decide, by decide⟩
theorem getCal : Statement .getCal := ⟨rfl, by decide, by decide, by decide⟩

end Sys2Proof.Laws.RoundTrip
end

