-- ==== Sys2Proof/Laws/Step.lean ====
section
/-! SUPPORT. What one step can do: the host's next interaction, taken apart once. -/

namespace Sys2Proof.Machine

variable {s t : State}

theorem raiseFault_records (c : FaultCode) (op : Byte) (h : faultBit s.status = false) :
    RecordsFault s (raiseFault c op s) c.code op := by
  rw [raiseFault_of_clear h]
  simp [RecordsFault, State.setStatus]

/-- A step with an interaction pending is that interaction. -/
theorem step_move {m : HostMove} {rest : List HostMove} (hw : s.cfg.wf = true) (hh : s.host = m :: rest) :
    step s = hostMove m (s.setHost rest) := by simp [step, hostStep, hw, hh]

theorem setWidth_setWidth (w : Word32) : (w.setWidth 64).setWidth 32 = w := by
  apply BitVec.eq_of_toNat_eq
  simp

/-- A step with a CMD write pending issues its word (R82). -/
theorem step_cmdWrite {w : Word32} {rest : List HostMove} (hw : s.cfg.wf = true) (hh : s.host = cmdWrite w :: rest) :
    step s = issue w (s.setHost rest) := by
  rw [step_move hw hh]
  simp [hostMove, cmdWrite, portAt, hostWrite]

/-- Only the four whole-register accesses name a port (R60, R61). -/
theorem portAt_eq_none {offset width : Nat} (h : ¬((offset = 0x00 ∧ width = 32) ∨ (offset = 0x08 ∧ width = 64) ∨
    (offset = 0x10 ∧ width = 64) ∨ (offset = 0x18 ∧ width = 32))) : portAt offset width = none := by
  unfold portAt
  split <;> simp_all

/-- Everything the issue of a word can do (R82). -/
theorem issue_cases (w : Word32) (s : State) :
    (faultBit s.status = true ∧ issue w s = .next s) ∨
    (∃ i, faultBit s.status = false ∧ decode w = .ok i ∧ issue w s = exec i s) ∨
    (∃ e, faultBit s.status = false ∧ decode w = .error e ∧
      issue w s = .next (raiseFault .illegal (opcField w) s)) := by
  unfold issue
  cases hf : faultBit s.status
  · cases hd : decode w <;> simp
  · simp

/-- Everything a host interaction that answers a next state can do (R274). -/
theorem hostMove_next {m : HostMove} (h : hostMove m s = .next t) :
    (m = .reset ∧ t = resetEngine s) ∨
    (∃ r, t = s.addReply r) ∨
    (∃ x, t = s.setArg x) ∨
    t = s ∨
    (∃ i, faultBit s.status = false ∧ exec i s = .next t) ∨
    (∃ op, faultBit s.status = false ∧ t = raiseFault .illegal op s) := by
  cases m with
  | reset => cases h; exact .inl ⟨rfl, rfl⟩
  | read offset width =>
    simp only [hostMove] at h
    split at h <;> cases h
    exact .inr (.inl ⟨_, rfl⟩)
  | write offset width x =>
    simp only [hostMove] at h
    split at h
    · rename_i p _
      cases p <;> simp only [hostWrite] at h
      · obtain ⟨-, e⟩ | ⟨i, hf, -, e⟩ | ⟨_, hf, -, e⟩ := issue_cases (x.setWidth 32) s
        · rw [e] at h; cases h; exact .inr (.inr (.inr (.inl rfl)))
        · rw [e] at h; exact .inr (.inr (.inr (.inr (.inl ⟨i, hf, h⟩))))
        · rw [e] at h; cases h; exact .inr (.inr (.inr (.inr (.inr ⟨_, hf, rfl⟩))))
      · cases h; exact .inr (.inr (.inl ⟨x, rfl⟩))
      · cases h; exact .inr (.inr (.inr (.inl rfl)))
      · cases h; exact .inr (.inr (.inr (.inl rfl)))
    · cases h

/-- Everything a step that answers a next state can do. -/
theorem step_next (h : step s = .next t) :
    s.cfg.wf = true ∧ ((s.host = [] ∧ t = s) ∨
      ∃ m rest, s.host = m :: rest ∧ hostMove m (s.setHost rest) = .next t) := by
  unfold step hostStep at h
  cases hw : s.cfg.wf
  · simp [hw] at h
  · rw [hw, if_pos rfl] at h
    split at h
    · cases h; exact ⟨rfl, .inl ⟨by assumption, rfl⟩⟩
    · exact ⟨rfl, .inr ⟨_, _, by assumption, h⟩⟩

/-- A run of one more step. -/
theorem run_succ (M : Host.Core) (n : Nat) (s t : M.State) (h : M.step s = .next t) :
    M.run (n + 1) s = M.run n t := by
  simp [Host.Core.run, h]

end Sys2Proof.Machine
end

