-- ==== Sys2Proof/Tests/Slice0.lean ====
section
/-! SUPPORT. Tests of the model's own: expected values are those of spec/95_test_vectors.md, each section named at its
test. Then, for every obligation with hypotheses, a state and operands that meet them together, at the ends of their
ranges. -/

namespace Sys2Proof.Tests

open Sys2Proof.Machine

/-! ### The small states the tests start from -/

/-- The sensor bytes of section 2: blocks 1 and 2 and the data block. -/
def refCal1 : List Byte :=
  [0x70, 0x6B, 0x43, 0x67, 0x18, 0xFC, 0x7D, 0x8E, 0x43, 0xD6, 0xD0, 0x0B, 0x27, 0x0B, 0x8C, 0x00, 0xF9, 0xFF, 0x8C,
    0x3C, 0xF8, 0xC6, 0x70, 0x17, 0x00, 0x4B]
def refCal2 : List Byte := [0x6A, 0x01, 0x00, 0x13, 0x29, 0x03, 0x1E]
def refData : List Byte := [0x65, 0x5A, 0xC0, 0x7E, 0xED, 0x00, 0x77, 0xD7]

/-- The coefficients of section 2. -/
def refCal : Calibration where
  digT1 := 27504
  digT2 := 26435
  digT3 := -1000
  digP1 := 36477
  digP2 := -10685
  digP3 := 3024
  digP4 := 2855
  digP5 := 140
  digP6 := -7
  digP7 := 15500
  digP8 := -14600
  digP9 := 6000
  digH1 := 75
  digH2 := 362
  digH3 := 0
  digH4 := 313
  digH5 := 50
  digH6 := 30

/-- The snapshot of section 9. -/
def refSnap : Snapshot := ⟨128422, 0x403915199999999A, 0x40F892D410000000, 0x404D632F18BC630E⟩

/-- Reset, with the sensor's answers to BEGIN ready, the identity being `id`. -/
def fresh (id : Byte) : State := { State.reset with sensor := id :: (refCal1 ++ refCal2) }

/-- After BEGIN, with the sensor's answer to POLL ready. -/
def loaded (data : List Byte) : State := { State.reset with cal := some refCal, status := 0x00000001, sensor := data }

/-- After POLL, with `x` in ARG. -/
def sampled (x : Word64) : State :=
  { State.reset with cal := some refCal, snap := some refSnap, status := 0x00000003, arg := x }

/-- After a fault (program P3). -/
def faulted (moves : List HostMove) : State := { State.reset with status := 0x00030380, host := moves }

/-- Reset with the host's interactions. -/
def hosted (moves : List HostMove) : State := { State.reset with host := moves }

/-- The state a command leaves, where it answers one. -/
def after (i : Instr) (s : State) : Option State :=
  match exec i s with
  | .next t => some t
  | .fault _ => none
  | .refused _ => none

/-- One field of it. -/
def fieldAfter {α : Type} (f : State → α) (i : Instr) (s : State) : Option α := (after i s).map f

/-- A NaN encoding for each draw. -/
def someNaN : Nat → F64 := fun _ => 0x7FF8000000000000

/-! ### Well-formedness (R52, R81; log 4) -/

theorem test_reserved_bits_refused :
    reservedClear 0x00000103 = false ∧ reservedClear 0x80000010 = false ∧ reservedClear 0x000000FF = true := by decide

theorem test_default_config_well_formed : Config.default.wf = true := by decide

theorem test_block1_past_the_end_refused : Config.wf { Config.default with cal1Addr := 0xE7 } = false := by decide

theorem test_block2_past_the_end_refused : Config.wf { Config.default with cal2Addr := 0xFA } = false := by decide

theorem test_data_past_the_end_refused : Config.wf { Config.default with dataAddr := 0xF9 } = false := by decide

theorem test_data_to_the_end_accepted : Config.wf { Config.default with dataAddr := 0xF8 } = true := by decide

theorem test_short_blocks_refused :
    Config.wf { Config.default with cal1Len := 25 } = false ∧ Config.wf { Config.default with cal2Len := 6 } = false ∧
    Config.wf { Config.default with dataLen := 7 } = false := by decide

/-! ### Decoding: each word written out from R81 and R83 (section 3) -/

theorem test_decode_begin : decode 0b00000000000000000000000000000001 = .ok .begin := by decide
theorem test_decode_setTempCal : decode 0b00000000000000000000000000000010 = .ok .setTempCal := by decide
theorem test_decode_poll : decode 0b00000000000000000000000000000011 = .ok .poll := by decide
theorem test_decode_getTempC : decode 0b00000000000000000000000000010000 = .ok .getTempC := by decide
theorem test_decode_getTempF : decode 0b00000000000000000000000000010001 = .ok .getTempF := by decide
theorem test_decode_getHum : decode 0b00000000000000000000000000010010 = .ok .getHum := by decide
theorem test_decode_getPress : decode 0b00000000000000000000000000010011 = .ok .getPress := by decide
theorem test_decode_getAlt : decode 0b00000000000000000000000000010100 = .ok .getAlt := by decide
theorem test_decode_getDewPt : decode 0b00000000000000000000000000010101 = .ok .getDewPt := by decide
theorem test_decode_getCal : decode 0b00000000000000000000000000100000 = .ok .getCal := by decide

theorem test_decode_illegal :
    decode 0x00000000 = .error .unknownOpcode ∧ decode 0x00000004 = .error .unknownOpcode ∧
    decode 0x0000000F = .error .unknownOpcode ∧ decode 0x00000016 = .error .unknownOpcode ∧
    decode 0x00000021 = .error .unknownOpcode ∧ decode 0x000000FF = .error .unknownOpcode ∧
    decode 0x00000103 = .error .reservedBits ∧ decode 0x80000010 = .error .reservedBits := by decide

/-- The table's numbering is the word's own. -/
theorem test_table_words :
    decodeTableWord 32 0x15 = some .getDewPt ∧ decodeTableWord 32 0x103 = none ∧
    (match step (State.reset.withFetchWord 32 0x10) with
      | .next t => some t.status
      | .fault _ => none
      | .refused _ => none) = some 0x00100580 := by decide

/-! ### The commands -/

/-- Section 4.1. -/
theorem test_begin_loads :
    fieldAfter (fun t => (t.cal, t.result, t.status)) .begin (fresh 0x60) = some (some refCal, 1, 0x00000001) ∧
    fieldAfter (fun t => t.busLog) .begin (fresh 0x60) =
      some [.memRead 0xD0 1 [0x60], .memRead 0x88 26 refCal1, .memRead 0xE1 7 refCal2] := by decide

/-- Sections 4.3 and 10. -/
theorem test_begin_mismatch_and_reinit :
    fieldAfter (fun t => (t.cal, t.result, t.status, t.busLog)) .begin (fresh 0x58) =
      some (none, 0, 0, [.memRead 0xD0 1 [0x58]]) ∧
    fieldAfter (fun t => (t.status, t.busLog)) .begin (loaded []) = some (0x00010481, []) := by decide

/-- Section 4.2, row 2, through DECODE_CAL. -/
theorem test_packed_pair :
    (decodeCal refCal1 [0x6A, 0x01, 0x00, 0xFF, 0xF8, 0x80, 0x1E]).digH4 = 0xFF8 ∧
    (decodeCal refCal1 [0x6A, 0x01, 0x00, 0xFF, 0xF8, 0x80, 0x1E]).digH5 = 0x80F := by decide

/-- Program P2: the offset is stored bit for bit, before any BEGIN. -/
theorem test_setTempCal_stores :
    fieldAfter (fun t => (t.calOffset, t.result, t.status)) .setTempCal { State.reset with arg := 0x3FF8000000000000 } =
      some (0x3FF8000000000000, 0, 0) := by decide

/-- Section 9. -/
theorem test_poll_reference :
    fieldAfter (fun t => (t.snap, t.status, t.busLog)) .poll (loaded refData) =
      some (some refSnap, 0x00000003, [.memRead 0xF7 8 refData]) := by decide +kernel

/-- Program P5: `DIG_P1 = 0`, and section 5's offset row `-0.25`. -/
theorem test_poll_pressure_unavailable :
    fieldAfter (fun t => (t.snap.map (fun m => (m.tempC, m.pressPa)), t.status)) .poll
      { loaded refData with cal := some { refCal with digP1 := 0 }, calOffset := 0xBFD0000000000000 } =
      some (some (0x4038D5199999999A, 0), 0x00000007) := by decide +kernel

theorem test_getTempC : fieldAfter (fun t => t.result) .getTempC (sampled 0) = some 0x403915199999999A := by decide

/-- Section 10. -/
theorem test_getTempC_no_sample :
    fieldAfter (fun t => (t.result, t.status)) .getTempC State.reset = some (0, 0x00100580) := by decide

theorem test_getTempF : fieldAfter (fun t => t.result) .getTempF (sampled 0) = some 0x4053497EB851EB85 := by
  decide +kernel

theorem test_getHum : fieldAfter (fun t => t.result) .getHum (sampled 0) = some 0x404D632F18BC630E := by decide

theorem test_getPress : fieldAfter (fun t => t.result) .getPress (sampled 0) = some 0x40F892D410000000 := by decide

/-- Section 10: `-0.0` is a zero `P0`. -/
theorem test_getAlt_zero_p0 :
    fieldAfter (fun t => (t.result, t.status)) .getAlt (sampled 0x8000000000000000) = some (0, 0x00140683) := by
  decide +kernel

/-- Section 8, fourth row, for a `POW` that gives 0 on a zero base; and the exponent of that section. -/
theorem test_alt_of_the_sentinel :
    alt (fun x _ => if isZero x then 0 else 1) someNaN 0 0x40F8BCD000000000 = 0x40E5A54000000000 ∧
    altExponent 0 = 0x3FC85B95CCD9456C := by decide +kernel

/-- Program P8. -/
theorem test_getDewPt_zero_humidity :
    fieldAfter (fun t => (t.result, t.status)) .getDewPt
      { sampled 0 with snap := some { refSnap with hum := 0 } } = some (0xC071126666666666, 0x0000000B) := by
  decide +kernel

/-- Section 8: a relative humidity of 100, where the logarithm is 0, gives the temperature back. -/
theorem test_dew_at_saturation :
    dew (fun _ => 0) 0 someNaN 0x403915199999999A 0x4059000000000000 = (0x403915199999999A, false) := by
  decide +kernel

/-- Program P6. -/
theorem test_getCal_reads :
    fieldAfter (fun t => t.result) .getCal { loaded [] with arg := 2 } = some 0xFFFFFFFFFFFFFC18 ∧
    fieldAfter (fun t => t.result) .getCal { loaded [] with arg := 15 } = some 0x139 := by decide

/-- Section 10: the index is unsigned; the gate comes before it. -/
theorem test_getCal_faults :
    fieldAfter (fun t => t.status) .getCal { loaded [] with arg := 0xFFFFFFFFFFFFFFFF } = some 0x00200281 ∧
    fieldAfter (fun t => t.status) .getCal { State.reset with arg := 99 } = some 0x00200380 := by decide

/-! ### The compensation formulas -/

/-- Section 5: the reference row and the row whose products overflow. -/
theorem test_tcomp :
    tcomp 519888 refCal = 128422 ∧
    tcomp 0 { refCal with digT1 := 65535, digT2 := 32767, digT3 := 32767 } = 31 := by decide

/-- Section 6: the reference row, and a negative denominator with a negative quotient. -/
theorem test_pcomp :
    pcomp 415148 128422 refCal = (25767233, false) ∧ pcomp 415148 0x80000000 refCal = (3970895809, false) := by
  decide +kernel

/-- Section 7: the reference row and both clamps. -/
theorem test_hcomp :
    hcomp someNaN 30679 128422 refCal = 0x404D632F18BC630E ∧ hcomp someNaN 0 128422 refCal = 0 ∧
    hcomp someNaN 65535 128422 refCal = 0x4059000000000000 := by decide +kernel

/-- Section 9: the low nibbles do not matter. -/
theorem test_raw_sample :
    adcP [0x65, 0x5A, 0xCF, 0x7E, 0xED, 0x0F, 0x77, 0xD7] = 415148 ∧
    adcT [0x65, 0x5A, 0xCF, 0x7E, 0xED, 0x0F, 0x77, 0xD7] = 519888 ∧
    adcH [0x65, 0x5A, 0xCF, 0x7E, 0xED, 0x0F, 0x77, 0xD7] = 30679 := by decide

/-- Section 5, the offset rows NaN and `+inf`. -/
theorem test_offset_specials :
    isNaN (tempWithOffset someNaN 128422 0x7FF8000000000000) = true ∧
    tempWithOffset someNaN 128422 0x7FF0000000000000 = 0x7FF0000000000000 := by decide +kernel

/-! ### The hypotheses of the obligations are met -/

theorem witness_IllegalWordsRaise :
    (hosted [cmdWrite 0x00000000]).cfg.wf = true ∧ faultBit (hosted [cmdWrite 0x00000000]).status = false ∧
    (hosted [cmdWrite 0x00000000]).host = [cmdWrite 0x00000000] ∧
    (([0x0, 0x4, 0xF, 0x16, 0x1F, 0x21, 0xFF, 0x100, 0x101, 0xFFFFFFFF] : List Word32).all fun w =>
      0x100 ≤ w.toNat ∨ w.toNat = 0 ∨ (0x04 ≤ w.toNat ∧ w.toNat ≤ 0x0F) ∨ (0x16 ≤ w.toNat ∧ w.toNat ≤ 0x1F) ∨
        (0x21 ≤ w.toNat ∧ w.toNat ≤ 0xFF)) = true ∧
    (([0x1, 0x3, 0x10, 0x15, 0x20] : List Word32).all fun w =>
      ¬(0x100 ≤ w.toNat ∨ w.toNat = 0 ∨ (0x04 ≤ w.toNat ∧ w.toNat ≤ 0x0F) ∨ (0x16 ≤ w.toNat ∧ w.toNat ≤ 0x1F) ∨
        (0x21 ≤ w.toNat ∧ w.toNat ≤ 0xFF))) = true := by decide +kernel

theorem witness_StepRunsTheDecodedCommand :
    (hosted [cmdWrite 0x00000020]).cfg.wf = true ∧ (hosted [cmdWrite 0x00000020]).host = cmdWrite 0x00000020 :: [] ∧
    faultBit (hosted [cmdWrite 0x00000020]).status = false ∧ decode 0x00000020 = .ok .getCal := by decide

theorem witness_PlacedCommandRunsNext :
    State.reset.cfg.wf = true ∧ faultBit State.reset.status = false ∧ decodeTableWord 32 1 = some .begin := by decide

theorem witness_FaultedEngineIgnoresCommands :
    (faulted []).cfg.wf = true ∧ faultBit (faulted []).status = true ∧
    (faulted [cmdWrite 0x00000103]).host = cmdWrite 0x00000103 :: [] ∧
    (faulted [.read 0x10 64]).host = .read 0x10 64 :: [] ∧ (faulted [.read 0x18 32]).host = .read 0x18 32 :: [] ∧
    (faulted [.read 0x08 64]).host = .read 0x08 64 :: [] ∧
    (faulted [.write 0x08 64 7]).host = .write 0x08 64 7 :: [] := by decide

theorem witness_FaultedEngineIgnoresCommands_any_move :
    HostMove.write 0x00 32 1 ≠ .reset ∧ ∃ t, step (faulted [.write 0x00 32 1]) = .next t := ⟨by decide, _, rfl⟩

theorem witness_ReadOnlyPortsIgnoreWrites :
    (hosted []).cfg.wf = true ∧ (hosted [.write 0x10 64 1]).host = .write 0x10 64 1 :: [] ∧
    (hosted [.write 0x18 32 1]).host = .write 0x18 32 1 :: [] ∧ (hosted [.read 0x00 32]).host = .read 0x00 32 :: [] := by
  decide

theorem witness_HostReadsAndWritesItsPorts :
    (hosted []).cfg.wf = true ∧ (hosted [.write 0x08 64 1]).host = .write 0x08 64 1 :: [] ∧
    (hosted [.read 0x10 64]).host = .read 0x10 64 :: [] ∧ (hosted [.read 0x18 32]).host = .read 0x18 32 :: [] ∧
    (hosted [.read 0x08 64]).host = .read 0x08 64 :: [] := by decide

theorem witness_UnmappedAccessesAreRefused :
    (∀ a ∈ ([(0x00, 31), (0x00, 64), (0x04, 32), (0x08, 32), (0x10, 32), (0x14, 32), (0x18, 64), (0x1C, 32), (0x20, 32)] :
        List (Nat × Nat)),
      ¬((a.1 = 0x00 ∧ a.2 = 32) ∨ (a.1 = 0x08 ∧ a.2 = 64) ∨ (a.1 = 0x10 ∧ a.2 = 64) ∨ (a.1 = 0x18 ∧ a.2 = 32)) ∧
        (hosted [.read a.1 a.2]).host = .read a.1 a.2 :: [] ∧ (hosted [.write a.1 a.2 1]).host = .write a.1 a.2 1 :: []) ∧
    (∀ a ∈ ([(0x00, 32), (0x08, 64), (0x10, 64), (0x18, 32)] : List (Nat × Nat)),
      ((a.1 = 0x00 ∧ a.2 = 32) ∨ (a.1 = 0x08 ∧ a.2 = 64) ∨ (a.1 = 0x10 ∧ a.2 = 64) ∨ (a.1 = 0x18 ∧ a.2 = 32)) ∧
        (hosted [.read a.1 a.2]).host = .read a.1 a.2 :: [] ∧ (hosted [.write a.1 a.2 1]).host = .write a.1 a.2 1 :: []) ∧
    StatusInv (hosted [.write 0x00 32 1]) := by decide

theorem witness_BurstsStayInTheRegisterSpace :
    256 < (0xE7 : Byte).toNat + 26 ∧ 256 < (0xFA : Byte).toNat + 7 ∧ 256 < (0xF9 : Byte).toNat + 8 ∧
    (after .begin (fresh 0x60)).isSome = true ∧ (after .poll (loaded refData)).isSome = true := by decide

theorem witness_IdleEngineDoesNothing : State.reset.cfg.wf = true ∧ State.reset.host = [] := by decide

theorem witness_ResetRestoresTheRegisters :
    (faulted [.reset]).cfg.wf = true ∧ (faulted [.reset]).host = .reset :: [] := by decide

theorem witness_BeginLoadsTheStore :
    calValid (fresh 0x60).status = false ∧ (fresh 0x60).cfg.wf = true ∧
    identityByte (fresh 0x60) = (fresh 0x60).cfg.idVal := by decide

/-- The second answer to the identity read is the constant. -/
theorem witness_BeginReportsAnIdentityMismatch :
    calValid { fresh 0x58 with sensor := [0x58, 0x60] }.status = false ∧
    { fresh 0x58 with sensor := [0x58, 0x60] }.cfg.wf = true ∧
    identityByte { fresh 0x58 with sensor := [0x58, 0x60] } ≠ 0x60 ∧
    fieldAfter identityByte .begin { fresh 0x58 with sensor := [0x58, 0x60] } = some 0x60 := by decide

theorem witness_GetCalReadsACoefficient :
    (calValid State.reset.status = false ∧ faultBit State.reset.status = false) ∧
    (calValid (loaded []).status = true ∧ (loaded []).cal = some refCal ∧ faultBit (loaded []).status = false) ∧
    17 < (18 : Word64).toNat ∧ 17 < (0xFFFFFFFFFFFFFFFF : Word64).toNat ∧ (0 : Word64).toNat ≤ 17 ∧
    (17 : Word64).toNat ≤ 17 := by decide

theorem witness_DecodeCalIsABijection : refCal1.length = 26 ∧ refCal2.length = 7 := by decide

theorem witness_ReferenceTemperatureNeverOverflows :
    refCal.digT1 = 27504#16 ∧ refCal.digT2 = 26435#16 ∧ refCal.digT3 = 0xFC18#16 := by decide

theorem witness_OffsetCornerCases :
    (∀ k, isNaN (someNaN k) = true) ∧ isNaN 0x7FF0000000000001#64 = true ∧ isInf 0x7FF0000000000000#64 = true ∧
    isInf 0xFFF0000000000000#64 = true :=
  ⟨fun _ => (by decide : isNaN 0x7FF8000000000000#64 = true), by decide, by decide, by decide⟩

/-- `DIG_P1 = 0` meets the first clause, the reference set the second (`P_UNAV` tells them apart). -/
theorem witness_PcompIsTheIntegerFormula :
    pcompDenominator (pcompOffset 128422) { refCal with digP1 := 0 } = 0 ∧
    pcompDenominator (pcompOffset 128422) refCal = 597560748 := by decide +kernel

theorem witness_ZeroDenominatorMeansUnavailable :
    ({ refCal with digP1 := 0 } : Calibration).digP1 = 0 ∧
    pcompDenominator (pcompOffset 128422) { refCal with digP1 := 0 } = 0 ∧
    pcompDenominator (pcompOffset 128422) refCal ≠ 0 := by decide +kernel

theorem witness_PascalConversionIsExact : (pcomp 415148 128422 { refCal with digP1 := 0 }).2 = true := by
  decide +kernel

/-- The clauses of CLAMP, at the neighbours of 100.0 and of the zeros. -/
theorem witness_ClampKeepsThePercentRange :
    fgt 0x4059000000000001#64 (f64 100) = true ∧
    (fgt 0x8000000000000001#64 (f64 100) = false ∧ flt 0x8000000000000001#64 (f64 0) = true) ∧
    (([0x4059000000000000, 0x0000000000000000, 0x8000000000000000, 0x7FF8000000000000] : List F64).all fun v =>
      fgt v (f64 100) = false ∧ flt v (f64 0) = false) = true ∧
    isNaN 0x4059000000000001#64 = false := by decide +kernel

theorem witness_PollRefreshesTheSnapshot :
    (calValid State.reset.status = false ∧ faultBit State.reset.status = false) ∧
    (calValid (loaded refData).status = true ∧ (loaded refData).cal = some refCal ∧ (loaded refData).cfg.wf = true) := by
  decide

theorem witness_PollIgnoresTheOldSnapshot :
    calValid (loaded refData).status = true ∧ ∃ t, exec .poll (loaded refData) = .next t := ⟨by decide, _, rfl⟩

theorem witness_AnySensorAnswerIsPossible :
    calValid (loaded []).status = true ∧ (loaded []).cal = some refCal ∧ (loaded []).cfg.wf = true ∧
    refData.length = (loaded []).cfg.dataLen := by decide

/-- One witness for the gate and one for the result of GETTEMPC, GETTEMPF, GETHUM and GETPRESS. -/
theorem witness_snapshot_accessors :
    (sampleValid State.reset.status = false ∧ faultBit State.reset.status = false) ∧
    (sampleValid (sampled 0).status = true ∧ (sampled 0).snap = some refSnap) := by decide

theorem witness_GetAltComputesTheAltitude :
    (sampleValid State.reset.status = false ∧ faultBit State.reset.status = false) ∧
    (([0x0, 0x8000000000000000] : List Word64).all fun x =>
      sampleValid (sampled x).status = true ∧ (sampled x).snap = some refSnap ∧ faultBit (sampled x).status = false ∧
        ((sampled x).arg = 0#64 ∨ (sampled x).arg = 0x8000000000000000#64)) = true ∧
    (([0x1, 0x8000000000000001, 0x7FFFFFFFFFFFFFFF, 0xFFFFFFFFFFFFFFFF] : List Word64).all fun x =>
      sampleValid (sampled x).status = true ∧ (sampled x).snap = some refSnap ∧ (sampled x).arg ≠ 0#64 ∧
        (sampled x).arg ≠ 0x8000000000000000#64) = true := by decide +kernel

theorem witness_GetDewPtComputesTheDewPoint :
    (sampleValid State.reset.status = false ∧ faultBit State.reset.status = false) ∧
    (sampleValid (sampled 0).status = true ∧ (sampled 0).snap = some refSnap) ∧
    (([0x0, 0x8000000000000000] : List F64).all fun h => h = 0#64 ∨ h = 0x8000000000000000#64) = true ∧
    ¬(refSnap.hum = 0#64 ∨ refSnap.hum = 0x8000000000000000#64) ∧
    ¬((0x1 : F64) = 0#64 ∨ (0x1 : F64) = 0x8000000000000000#64) := by decide +kernel

/-- A power that meets every property the clauses name: NaN on a NaN or negative base, 0 on a zero, else 1. -/
def somePow (x _y : F64) : F64 :=
  if isNaN x then 0x7FF8000000000000 else if isZero x then 0 else if fNeg x then 0x7FF8000000000000
  else 0x3FF0000000000000

theorem witness_AltitudeCornerCases :
    (∀ k, isNaN (someNaN k) = true) ∧
    (isFinite refSnap.pressPa = true ∧ isZero refSnap.pressPa = false ∧
      somePow (f64 1) (fdiv (someNaN 1) (f64 1) (f64 5255 1000)) = f64 1) ∧
    (isNaN 0x40F8BCD000000000#64 = false ∧ isZero 0x40F8BCD000000000#64 = false) ∧
    isInf 0x7FF0000000000000#64 = true ∧ isNaN 0x7FF8000000000000#64 = true ∧
    (fNeg refSnap.pressPa = false ∧ isFinite 0xC0F8BCD000000000#64 = true ∧ fNeg 0xC0F8BCD000000000#64 = true ∧
      isZero (fdiv (someNaN 0) refSnap.pressPa 0xC0F8BCD000000000#64) = false ∧
      isInf (fdiv (someNaN 0) refSnap.pressPa 0xC0F8BCD000000000#64) = false) :=
  ⟨fun _ => (by decide : isNaN 0x7FF8000000000000#64 = true), by decide +kernel⟩

theorem witness_AltitudeCornerCases_power (e : F64) :
    (∀ z, isZero z = true → somePow z e = 0#64) ∧ (∀ x, isNaN x = true → isNaN (somePow x e) = true) ∧
    (∀ x, isFinite x = true → isZero x = false → fNeg x = true → isNaN (somePow x e) = true) := by
  have nan : isNaN 0x7FF8000000000000#64 = true := by decide
  refine ⟨fun z h => ?_, fun x h => ?_, fun x hf hz hn => ?_⟩
  · have hz : isNaN z = false := by simp only [isZero, isNaN, beq_iff_eq] at *; simp [h]
    simp [somePow, hz, h]
  · simp [somePow, h, nan]
  · simp [somePow, isNaN_eq_false_of_finite hf, hz, hn, nan]

theorem witness_DewPointCornerCases :
    (∀ k, isNaN (someNaN k) = true) ∧ isZero refSnap.hum = false ∧ isNaN 0x7FF8000000000000#64 = true ∧
    isInf 0xFFF0000000000000#64 = true ∧ f64 (-24312) 100 = 0xC06E63D70A3D70A4#64 ∧
    isFinite ((fun _ => 0 : F64 → F64) (fdiv (someNaN 0) refSnap.hum (f64 100))) = true :=
  ⟨fun _ => (by decide : isNaN 0x7FF8000000000000#64 = true), by decide +kernel⟩

/-- Program P9's middle part between two accessors: an ARG write, SETTEMPCAL, a read, and ARG restored. -/
def idleBetween : List HostMove := [wrArg 0x3FF8000000000000, cmd .setTempCal, rdRes, wrArg 0]

theorem witness_AccessorsAreIdempotent :
    isAccessor .getTempC = true ∧ idleBetween.all keepsSnapshot = true ∧ keepsSnapshot (cmd .poll) = false ∧
    ∃ t, exec .getTempC (sampled 0) = .next t ∧
      ∃ u, Sys2Proof.core.run idleBetween.length { t with calOffset := 0, host := idleBetween ++ [] } = .next u ∧
        u.arg = (sampled 0).arg ∧ ∃ v, exec .getTempC u = .next v :=
  ⟨by decide, by decide, by decide, _, rfl, _, rfl, rfl, _, rfl⟩

/-- GETALT with an operand that is no NaN. -/
theorem witness_AccessorsAreIdempotent_getAlt :
    isAccessor .getAlt = true ∧ isNaN (sampled 0x40F8BCD000000000).arg = false ∧
    ∃ t, exec .getAlt (sampled 0x40F8BCD000000000) = .next t ∧
      ∃ u, Sys2Proof.core.run 0 { t with calOffset := 0x3FF8000000000000, host := [] } = .next u ∧
        u.arg = (sampled 0x40F8BCD000000000).arg ∧ ∃ v, exec .getAlt u = .next v := by
  have h : feq 0x40F8BCD000000000#64 (f64 0) = false := by decide +kernel
  refine ⟨by decide, by decide, _, by
    rw [exec, execGetAlt, withSnapshot_open (by decide) rfl, if_neg (by simp [floatOperand, fromBits64, sampled, h])],
    _, rfl, rfl, ?_⟩
  exact ⟨_, by rw [exec, execGetAlt, withSnapshot_open (by decide) rfl,
    if_neg (by simp [floatOperand, fromBits64, sampled, State.setResult, State.drawNaNs, h])]⟩

theorem witness_snapshot_invariant :
    SnapshotInv (sampled 0) ∧ SnapshotInv (sampled 0x40F8BCD000000000) := by
  refine ⟨fun m hm => ?_, fun m hm => ?_⟩ <;>
  · obtain rfl : refSnap = m := by simpa [sampled] using hm
    decide +kernel

theorem witness_AFaultWritesOnlyItsRecord :
    faultBit State.reset.status = false ∧ faultBit (faulted []).status = true := by decide

theorem witness_FaultPriority :
    (State.reset.cfg.wf = true ∧ faultBit State.reset.status = false) ∧
    ((hosted [cmdWrite 0x00000103]).host = cmdWrite 0x00000103 :: [] ∧ decode 0x00000103 = .error .reservedBits) ∧
    (calValid (loaded []).status = true ∧ faultBit (loaded []).status = false ∧ (loaded []).cal = some refCal ∧
      17 < (18 : Word64).toNat) ∧
    calValid State.reset.status = false ∧ (sampleValid State.reset.status = false ∧ isAccessor .getHum = true) ∧
    (sampleValid (sampled 0x8000000000000000).status = true ∧ (sampled 0x8000000000000000).snap = some refSnap ∧
      faultBit (sampled 0x8000000000000000).status = false) := by decide

theorem witness_FaultsArePrecise :
    faultBit State.reset.status = false ∧ fieldAfter (fun t => faultBit t.status) .poll State.reset = some true := by
  decide

/-- Also for EachRegisterHasItsWriter. -/
theorem witness_CommandsLeaveTheHostSide :
    (∃ t, exec .begin (fresh 0x60) = .next t) ∧ (∃ t, exec .setTempCal State.reset = .next t) ∧
    (∃ t, exec .poll (loaded refData) = .next t) ∧ (∃ t, exec .getDewPt (sampled 0) = .next t) :=
  ⟨⟨_, rfl⟩, ⟨_, rfl⟩, ⟨_, rfl⟩, ⟨_, rfl⟩⟩

theorem witness_StepKeepsStatusHonest :
    StatusInv (sampled 0) ∧ ∃ t, step { sampled 0 with host := [cmdWrite 0x00000010] } = .next t :=
  ⟨by decide, _, rfl⟩

theorem witness_StepKeepsTheBusReadOnly :
    BusInv { loaded refData with busLog := [.memRead 0xD0 1 [0x60]], host := [cmdWrite 0x00000003] } ∧
    ∃ t, step { loaded refData with busLog := [.memRead 0xD0 1 [0x60]], host := [cmdWrite 0x00000003] } = .next t :=
  ⟨by decide, _, rfl⟩

theorem witness_StepKeepsTheSnapshotInRange :
    ∃ t, step { sampled 0x40F8BCD000000000 with host := [cmdWrite 0x00000002] } = .next t := ⟨_, rfl⟩

theorem witness_OnlyResetClearsStatus :
    { sampled 0 with host := [cmdWrite 0x00000010] }.host.head? ≠ some .reset ∧
    (∃ t, step { sampled 0 with host := [cmdWrite 0x00000010] } = .next t) ∧ calValid (sampled 0).status = true ∧
    sampleValid (sampled 0).status = true ∧ (faulted [cmdWrite 0x00000001]).host.head? ≠ some .reset ∧
    (∃ t, step (faulted [cmdWrite 0x00000001]) = .next t) ∧ faultBit (faulted [cmdWrite 0x00000001]).status = true :=
  ⟨by decide, ⟨_, rfl⟩, by decide, by decide, by decide, ⟨_, rfl⟩, by decide⟩

/-- Program P7, as host interactions. -/
theorem witness_HostProgramsRunToTheirEnd :
    Config.default.wf = true ∧
    ([cmdWrite 0x00000103, rdStat, cmd .begin, wrArg 0x12, rdRes, .reset] : List HostMove).all moveMapped = true := by
  decide

theorem witness_MappedMovesAlwaysStep :
    StatusInv (sampled 0) ∧ (sampled 0).cfg.wf = true ∧
    (∀ m ∈ ([cmdWrite 0x00000014, cmdWrite 0xFFFFFFFF, wrArg 0, rdRes, rdStat, .read 0x00 32, .reset] : List HostMove),
      moveMapped m = true ∧ { sampled 0 with host := [m] }.host = m :: []) := by decide

theorem witness_IntegerConversionIsExact :
    (9007199254740991 : Int).natAbs < 2 ^ 53 ∧ (-9007199254740991 : Int).natAbs < 2 ^ 53 ∧ (0 : Int).natAbs < 2 ^ 53 := by
  decide

/-- Finite operands with finite results, a sum exactly at the overflow boundary and one just below it, and a division by
a zero. -/
theorem witness_OperationsRoundToNearest :
    isFinite 0x3FF8000000000000#64 = true ∧ isFinite 0xBFD0000000000000#64 = true ∧
    isFinite 0x7FEFFFFFFFFFFFFF#64 = true ∧ isZero 0xBFD0000000000000#64 = false ∧
    isFinite (fadd 0 0x3FF8000000000000#64 0xBFD0000000000000#64) = true ∧
    isFinite (fsub 0 0x3FF8000000000000#64 0xBFD0000000000000#64) = true ∧
    isFinite (fmul 0 0x3FF8000000000000#64 0xBFD0000000000000#64) = true ∧
    isFinite (fdiv 0 0x3FF8000000000000#64 0xBFD0000000000000#64) = true ∧
    isInf (fadd 0 0x7FEFFFFFFFFFFFFF#64 0x7C90000000000000#64) = true ∧
    isInf (fadd 0 0x7FEFFFFFFFFFFFFF#64 0x7C8FFFFFFFFFFFFF#64) = false ∧ isZero 0x8000000000000000#64 = true := by
  decide +kernel

/-- The overflow boundary is IEEE 754's `2^1024 - 2^970`, in units of 2^-1074. -/
theorem test_overflow_boundary : overflowTwice = 2 * (2 ^ 2098 - 2 ^ 2044) := by decide +kernel

/-- Equal infinities are invalid for the difference, opposite ones for the sum; 1.0 and 1.0 for none. -/
theorem witness_NaNResultsAreDraws :
    isNaN 0x7FF8000000000000#64 = true ∧ (isInf 0x7FF0000000000000#64 = true ∧ isInf 0xFFF0000000000000#64 = true ∧
      fNeg 0x7FF0000000000000#64 ≠ fNeg 0xFFF0000000000000#64) ∧ isZero 0x8000000000000000#64 = true ∧
    isNaN 0x3FF0000000000000#64 = false ∧ isInf 0x3FF0000000000000#64 = false ∧ isZero 0x3FF0000000000000#64 = false := by
  decide

end Sys2Proof.Tests
end

section
/-! Rounding to nearest, ties to even (R14): `roundMag` lies between the halfway points of its neighbours on the grid. -/

namespace Sys2Proof.Machine

/-! ### Halfway points -/

/-- `num / den` lies between the halfway points from `m` to its two neighbours on the grid, and on one of them only if the
magnitude `m` is even: `m` is a correct rounding, ties to even, with no overflow. -/
structure IsRounding (num den m : Nat) : Prop where
  above : ∀ n, m = n + 1 → (gridMag n + gridMag m) * den ≤ 2 * num ∧
    ((gridMag n + gridMag m) * den = 2 * num → m % 2 = 0)
  below : 2 * num ≤ (gridMag m + gridMag (m + 1)) * den ∧
    (2 * num = (gridMag m + gridMag (m + 1)) * den → m % 2 = 0)

/-- The three outcomes of a rounding by quotient `q` and remainder `r`: down, up, or a tie to the even neighbour. -/
theorem roundNearestEven_cases (num : Nat) {den : Nat} (hd : 0 < den) :
    ∃ q r, num = q * den + r ∧ r < den ∧
      ((2 * r < den ∧ roundNearestEven num den = q) ∨ (den < 2 * r ∧ roundNearestEven num den = q + 1) ∨
        (2 * r = den ∧ q % 2 = 0 ∧ roundNearestEven num den = q) ∨
        (2 * r = den ∧ q % 2 = 1 ∧ roundNearestEven num den = q + 1)) := by
  refine ⟨num / den, num % den, (Nat.div_add_mod' num den).symm, Nat.mod_lt num hd, ?_⟩
  unfold roundNearestEven
  simp only
  split_ifs <;> omega

/-- `num` is at most half a step above its rounding, and half a step only if the rounding is even. -/
theorem roundNearestEven_below (num : Nat) {den : Nat} (hd : 0 < den) :
    2 * num ≤ (2 * roundNearestEven num den + 1) * den ∧
      (2 * num = (2 * roundNearestEven num den + 1) * den → roundNearestEven num den % 2 = 0) := by
  obtain ⟨q, r, rfl, hr, ⟨h, e⟩ | ⟨h, e⟩ | ⟨h, hq, e⟩ | ⟨h, hq, e⟩⟩ := roundNearestEven_cases num hd <;>
    rw [e] <;> ring_nf <;> omega

/-- `num` is at most half a step below its rounding, and half a step only if the rounding is even. -/
theorem roundNearestEven_above (num : Nat) {den : Nat} (hd : 0 < den) :
    2 * roundNearestEven num den * den ≤ 2 * num + den ∧
      (2 * roundNearestEven num den * den = 2 * num + den → roundNearestEven num den % 2 = 0) := by
  obtain ⟨q, r, rfl, hr, ⟨h, e⟩ | ⟨h, e⟩ | ⟨h, hq, e⟩ | ⟨h, hq, e⟩⟩ := roundNearestEven_cases num hd <;>
    rw [e] <;> ring_nf <;> omega

theorem le_roundNearestEven {num den b : Nat} (hd : 0 < den) (h : b * den ≤ num) : b ≤ roundNearestEven num den := by
  have hq : b ≤ num / den := (Nat.le_div_iff_mul_le hd).2 h
  unfold roundNearestEven
  simp only
  split_ifs <;> omega

/-! ### The rounding before the overflow to infinity -/

/-- How far `roundMag` shifts the significand of `num / den`. -/
def roundShift (num den : Nat) : Nat := Nat.log2 (num / den) - 52

/-- `roundMag` before its overflow to infinity. -/
def roundIndex (num den : Nat) : Nat :=
  roundShift num den * 2 ^ 52 + roundNearestEven num (den * 2 ^ roundShift num den)

theorem roundMag_eq_min (num den : Nat) : roundMag num den = min infMag (roundIndex num den) := rfl

/-- The significand does not exceed `2^53`. -/
theorem lt_significand_end (num : Nat) {den : Nat} (hd : 0 < den) :
    num < 2 ^ 53 * (den * 2 ^ roundShift num den) := by
  have hq : num / den < 2 ^ 53 * 2 ^ roundShift num den := by
    rw [← Nat.pow_add]
    refine lt_of_lt_of_le Nat.lt_log2_self (Nat.pow_le_pow_right (by omega) ?_)
    unfold roundShift; omega
  calc num < den * (num / den + 1) := Nat.lt_mul_div_succ num hd
    _ ≤ den * (2 ^ 53 * 2 ^ roundShift num den) := Nat.mul_le_mul_left _ hq
    _ = 2 ^ 53 * (den * 2 ^ roundShift num den) := by ring

/-- A shifted significand has its leading bit. -/
theorem significand_start_le {num den : Nat} (hs : roundShift num den ≠ 0) :
    2 ^ 52 * (den * 2 ^ roundShift num den) ≤ num := by
  have hlog : 52 + roundShift num den = (num / den).log2 := by unfold roundShift at *; omega
  have hq : num / den ≠ 0 := fun h => by rw [h, Nat.log2_zero] at hlog; omega
  calc 2 ^ 52 * (den * 2 ^ roundShift num den) = 2 ^ (52 + roundShift num den) * den := by rw [Nat.pow_add]; ring
    _ ≤ num / den * den := Nat.mul_le_mul_right _ (hlog ▸ Nat.log2_self_le hq)
    _ ≤ num := Nat.div_mul_le_self num den

theorem isRounding_roundIndex (num : Nat) {den : Nat} (hd : 0 < den) : IsRounding num den (roundIndex num den) := by
  have hend := lt_significand_end num hd
  have hstart := significand_start_le (num := num) (den := den)
  unfold roundIndex
  generalize roundShift num den = s at *
  have hds : 0 < den * 2 ^ s := by positivity
  obtain ⟨hbelow, hbelow_even⟩ := roundNearestEven_below num hds
  obtain ⟨habove, habove_even⟩ := roundNearestEven_above num hds
  have hr53 : roundNearestEven num (den * 2 ^ s) ≤ 2 ^ 53 := roundNearestEven_le hend.le hds
  have hr52 : s = 0 ∨ 2 ^ 52 ≤ roundNearestEven num (den * 2 ^ s) :=
    or_iff_not_imp_left.2 fun hs => le_roundNearestEven hds (hstart hs)
  generalize roundNearestEven num (den * 2 ^ s) = r at *
  have hg : gridMag (s * 2 ^ 52 + r) = r * 2 ^ s := gridMag_step s r hr53 hr52
  constructor
  · intro n hn
    by_cases hfirst : s ≠ 0 ∧ r = 2 ^ 52
    · -- the smallest significand of its exponent: `num / den` is not below the grid point itself
      obtain ⟨hs, rfl⟩ := hfirst
      have hlt : gridMag n < gridMag (s * 2 ^ 52 + 2 ^ 52) := gridMag_strictMono (by omega)
      have hge : gridMag (s * 2 ^ 52 + 2 ^ 52) * den ≤ num := by
        rw [hg]; refine le_trans (le_of_eq ?_) (hstart hs); ring
      refine ⟨?_, fun _ => by omega⟩
      have := Nat.mul_le_mul_right den hlt.le
      rw [Nat.add_mul]; omega
    · obtain ⟨r, rfl⟩ : ∃ r', r = r' + 1 := ⟨r - 1, by omega⟩
      obtain rfl : n = s * 2 ^ 52 + r := by omega
      have e : (gridMag (s * 2 ^ 52 + r) + gridMag (s * 2 ^ 52 + (r + 1))) * den + den * 2 ^ s =
          2 * (r + 1) * (den * 2 ^ s) := by
        rw [hg, gridMag_step s r (by omega) (by omega)]; ring
      exact ⟨by omega, fun h => by have := habove_even (by omega); omega⟩
  · rcases Nat.lt_or_ge r (2 ^ 53) with hr | hr
    · have e : (gridMag (s * 2 ^ 52 + r) + gridMag (s * 2 ^ 52 + r + 1)) * den = (2 * r + 1) * (den * 2 ^ s) := by
        rw [hg, Nat.add_assoc, gridMag_step s (r + 1) (by omega) (by omega)]; ring
      rw [e]
      exact ⟨hbelow, fun h => by have := hbelow_even h; omega⟩
    · -- the significand was rounded up to `2^53`: `num / den` is below the grid point itself
      obtain rfl : r = 2 ^ 53 := by omega
      refine ⟨?_, fun _ => by omega⟩
      have hlt := gridMag_lt_succ (s * 2 ^ 52 + 2 ^ 53)
      have hle : num ≤ gridMag (s * 2 ^ 52 + 2 ^ 53) * den := by
        rw [hg]; refine hend.le.trans (le_of_eq ?_); ring
      have := Nat.mul_le_mul_right den hlt.le
      rw [Nat.add_mul]; omega

/-! ### What a rounding is good for -/

/-- A correct rounding is at least as near as any other grid point, and even where another is equally near. -/
theorem IsRounding.nearest {num den m : Nat} (h : IsRounding num den m) (hd : 0 < den) (y : Nat) :
    |(gridMag m * den : Int) - num| ≤ |(gridMag y * den : Int) - num| ∧
      (|(gridMag m * den : Int) - num| = |(gridMag y * den : Int) - num| → y = m ∨ m % 2 = 0) := by
  obtain ⟨habove, hbelow, hbelow_even⟩ := h
  rcases Nat.lt_trichotomy y m with hy | rfl | hy
  · obtain ⟨n, rfl⟩ : ∃ n, m = n + 1 := ⟨m - 1, by omega⟩
    obtain ⟨ha, ha_even⟩ := habove n rfl
    have hyn : gridMag y * den ≤ gridMag n * den :=
      Nat.mul_le_mul_right _ (gridMag_strictMono.monotone (by omega))
    have hnm : gridMag n * den < gridMag (n + 1) * den := Nat.mul_lt_mul_of_pos_right (gridMag_lt_succ n) hd
    rw [Nat.add_mul] at ha ha_even
    zify at *
    rcases abs_cases ((gridMag (n + 1) * den : Int) - num) with ⟨e, he⟩ | ⟨e, he⟩ <;>
      rcases abs_cases ((gridMag y * den : Int) - num) with ⟨e', he'⟩ | ⟨e', he'⟩ <;>
      rw [e, e'] <;> exact ⟨by omega, fun h => .inr (ha_even (by omega))⟩
  · exact ⟨le_rfl, fun _ => .inl rfl⟩
  · have hym : gridMag (m + 1) * den ≤ gridMag y * den :=
      Nat.mul_le_mul_right _ (gridMag_strictMono.monotone (by omega))
    have hmm : gridMag m * den < gridMag (m + 1) * den := Nat.mul_lt_mul_of_pos_right (gridMag_lt_succ m) hd
    rw [Nat.add_mul] at hbelow hbelow_even
    zify at *
    rcases abs_cases ((gridMag m * den : Int) - num) with ⟨e, he⟩ | ⟨e, he⟩ <;>
      rcases abs_cases ((gridMag y * den : Int) - num) with ⟨e', he'⟩ | ⟨e', he'⟩ <;>
      rw [e, e'] <;> exact ⟨by omega, fun h => .inr (hbelow_even (by omega))⟩

/-- Only the zero magnitude is a correct rounding of zero. -/
theorem IsRounding.eq_zero {den m : Nat} (h : IsRounding 0 den m) (hd : 0 < den) : m = 0 := by
  rcases m with _ | n
  · rfl
  · have hpos : 0 < (gridMag n + gridMag (n + 1)) * den := Nat.mul_pos (Nat.add_pos_right _ (gridMag_pos n.succ_pos)) hd
    exact absurd (h.above n rfl).1 (by omega)

/-- A correct rounding reaches an odd magnitude's successor exactly from their halfway point on. -/
theorem IsRounding.succ_le_iff {num den m k : Nat} (h : IsRounding num den m) (hd : 0 < den) (hk : k % 2 = 1) :
    k + 1 ≤ m ↔ (gridMag k + gridMag (k + 1)) * den ≤ 2 * num := by
  obtain ⟨habove, hbelow, hbelow_even⟩ := h
  constructor
  · intro hkm
    obtain ⟨n, rfl⟩ : ∃ n, m = n + 1 := ⟨m - 1, by omega⟩
    refine le_trans (Nat.mul_le_mul_right _ (Nat.add_le_add ?_ ?_)) (habove n rfl).1
    · exact gridMag_strictMono.monotone (by omega)
    · exact gridMag_strictMono.monotone hkm
  · intro hhalf
    by_contra hkm
    rcases Nat.lt_or_eq_of_le (show m ≤ k by omega) with hlt | rfl
    · have hm : gridMag m < gridMag k := gridMag_strictMono hlt
      have hm1 : gridMag (m + 1) ≤ gridMag (k + 1) := gridMag_strictMono.monotone (by omega)
      have := Nat.mul_lt_mul_of_pos_right (Nat.add_lt_add_of_lt_of_le hm hm1) hd
      omega
    · have := hbelow_even (le_antisymm hbelow hhalf)
      omega

theorem isRounding_roundMag {num den : Nat} (hd : 0 < den) (h : roundMag num den < infMag) :
    IsRounding num den (roundMag num den) := by
  have e : roundMag num den = roundIndex num den := by rw [roundMag_eq_min] at *; omega
  exact e ▸ isRounding_roundIndex num hd

/-- Rounding overflows exactly from the halfway point between the largest finite magnitude and infinity's on. -/
theorem roundMag_eq_infMag_iff (num : Nat) {den : Nat} (hd : 0 < den) :
    roundMag num den = infMag ↔ overflowTwice * den ≤ 2 * num := by
  have h := (isRounding_roundIndex num hd).succ_le_iff (k := infMag - 1) hd (by decide)
  rw [show infMag - 1 + 1 = infMag by decide] at h
  rw [roundMag_eq_min, min_eq_left_iff, overflowTwice, h]

theorem roundMag_zero {den : Nat} (hd : 0 < den) : roundMag 0 den = 0 := by
  simpa [gridMag_zero] using roundMag_exact (m := 0) (by decide) hd

/-! ### Signed results -/

theorem abs_sub_eq_abs_sub_abs {a b : Int} (h : 0 ≤ a * b) : |a - b| = |(|a| - |b|)| := by
  rcases mul_nonneg_iff.1 h with ⟨ha, hb⟩ | ⟨ha, hb⟩
  · rw [abs_of_nonneg ha, abs_of_nonneg hb]
  · rw [abs_of_nonpos ha, abs_of_nonpos hb, ← abs_neg]; congr 1; ring

theorem abs_fGrid (x : F64) : |fGrid x| = gridMag (fMag x) := by
  rw [Int.abs_eq_natAbs, fGrid_natAbs]

/-- `x` is a nearest finite value to `exact / scale`, as seen against `y`; of two it is the even one. -/
def NearestAgainst (y : F64) (scale exact : Int) (x : F64) : Prop :=
  |fGrid x * scale - exact| ≤ |fGrid y * scale - exact| ∧
    (|fGrid x * scale - exact| = |fGrid y * scale - exact| → fGrid y = fGrid x ∨ fMag x % 2 = 0)

/-- `x` is what IEEE 754 rounds `exact / scale` to: nearest, ties to even, overflow to the infinity of sign `neg`. -/
def RoundsAgainst (y : F64) (scale exact : Int) (neg : Bool) (x : F64) : Prop :=
  (isFinite x = true → NearestAgainst y scale exact x) ∧ isNaN x = false ∧
    (isInf x = true ↔ overflowTwice * |scale| ≤ 2 * |exact|) ∧ (isInf x = true → fNeg x = neg)

/-- A correctly rounded magnitude under the exact result's sign is nearest to the exact result. -/
theorem nearestAgainst_of_isRounding {x : F64} {scale exact : Int} (y : F64) (hs : scale ≠ 0)
    (hsign : 0 ≤ fGrid x * scale * exact) (h : IsRounding exact.natAbs scale.natAbs (fMag x)) :
    NearestAgainst y scale exact x := by
  obtain ⟨hle, heven⟩ := h.nearest (Int.natAbs_pos.2 hs) (fMag y)
  simp only [← abs_fGrid, Int.natCast_natAbs, ← abs_mul] at hle heven
  rw [← abs_sub_eq_abs_sub_abs hsign] at hle heven
  have hy := abs_abs_sub_abs_le_abs_sub (fGrid y * scale) exact
  refine ⟨hle.trans hy, fun htie => ?_⟩
  rcases heven (le_antisymm hle (htie ▸ hy)) with hmag | hmag
  · -- `y` is `x` or its opposite, and opposite values are equally near only if they are zero
    left
    rcases Int.natAbs_eq_natAbs_iff.1 (show (fGrid y).natAbs = (fGrid x).natAbs by
      rw [fGrid_natAbs, fGrid_natAbs, hmag]) with e | e
    · exact e
    · have hx : fGrid x = 0 := by
        rw [e, abs_eq_abs] at htie
        rcases htie with h0 | h0
        · exact (mul_eq_zero.1 (show fGrid x * scale = 0 by linarith)).resolve_right hs
        · obtain rfl : exact = 0 := by linarith
          rw [← Int.natAbs_eq_zero, fGrid_natAbs, h.eq_zero (Int.natAbs_pos.2 hs), gridMag_zero]
      rw [e, hx, neg_zero]
  · exact .inr hmag

/-- Rounding the magnitude and giving it the exact result's sign is what IEEE 754 asks for. -/
theorem roundsAgainst_roundMag (y : F64) {scale exact : Int} {neg : Bool} (hs : scale ≠ 0)
    (hsign : if neg then scale * exact ≤ 0 else 0 ≤ scale * exact) :
    RoundsAgainst y scale exact neg (mkF64 neg (roundMag exact.natAbs scale.natAbs)) := by
  have hd : 0 < scale.natAbs := Int.natAbs_pos.2 hs
  have hmag := fMag_mkF64 neg _ (roundMag_lt exact.natAbs scale.natAbs)
  refine ⟨fun hfin => ?_, isNaN_mkF64_of_le _ (roundMag_le_infMag _ _), ?_, fun _ => fNeg_mkF64 _ _ (roundMag_lt _ _)⟩
  · rw [isFinite, hmag, decide_eq_true_eq] at hfin
    refine nearestAgainst_of_isRounding y hs ?_ (by rw [hmag]; exact isRounding_roundMag hd hfin)
    rw [fGrid_mkF64 _ (roundMag_le_infMag _ _), mul_assoc]
    cases neg <;> simp only [if_true, Bool.false_eq_true, if_false] at hsign ⊢
    · exact mul_nonneg (Int.natCast_nonneg _) hsign
    · exact mul_nonneg_of_nonpos_of_nonpos (neg_nonpos.2 (Int.natCast_nonneg _)) hsign
  · rw [isInf, hmag, beq_iff_eq, roundMag_eq_infMag_iff _ hd]
    zify

/-! ### The four operations -/

theorem fGrid_sign (x : F64) : if fNeg x then fGrid x ≤ 0 else 0 ≤ fGrid x := by
  cases h : fNeg x <;> simp [fGrid, h]

/-- The sign rule of products and quotients. -/
theorem fGrid_mul_sign (a b : F64) :
    if fNeg a != fNeg b then fGrid a * fGrid b ≤ 0 else 0 ≤ fGrid a * fGrid b := by
  have ha := fGrid_sign a
  have hb := fGrid_sign b
  cases hna : fNeg a <;> cases hnb : fNeg b <;> simp only [hna, hnb, if_true, Bool.false_eq_true, if_false] at ha hb
  · exact mul_nonneg ha hb
  · exact mul_nonpos_of_nonneg_of_nonpos ha hb
  · exact mul_nonpos_of_nonpos_of_nonneg ha hb
  · exact mul_nonneg_of_nonpos_of_nonpos ha hb

theorem roundsAgainst_fadd (nan y : F64) {a b : F64} (ha : isFinite a = true) (hb : isFinite b = true) :
    RoundsAgainst y 1 (fGrid a + fGrid b) (decide (fGrid a + fGrid b < 0)) (fadd nan a b) := by
  have hround : ∀ neg : Bool, (if neg then fGrid a + fGrid b ≤ 0 else 0 ≤ fGrid a + fGrid b) →
      RoundsAgainst y 1 (fGrid a + fGrid b) neg (mkF64 neg (roundMag (fGrid a + fGrid b).natAbs 1)) :=
    fun neg h => roundsAgainst_roundMag y one_ne_zero (by simpa using h)
  rw [fadd_finite nan ha hb]
  split_ifs with hz
  · -- an exactly zero sum is a zero of either sign, so the sign of an infinity is not asked for
    obtain ⟨hnear, hnan, hinf, -⟩ := hround (fNeg a && fNeg b) (by simp [hz])
    rw [hz, Int.natAbs_zero, roundMag_zero Nat.one_pos] at hnear hnan hinf
    refine ⟨hz ▸ hnear, hnan, hz ▸ hinf, fun h => ?_⟩
    simp [isInf, fMag_mkF64, infMag] at h
  · apply hround
    by_cases h : fGrid a + fGrid b < 0 <;> simp [h] <;> omega

theorem roundsAgainst_fsub (nan y : F64) {a b : F64} (ha : isFinite a = true) (hb : isFinite b = true) :
    RoundsAgainst y 1 (fGrid a - fGrid b) (decide (fGrid a - fGrid b < 0)) (fsub nan a b) := by
  have h := roundsAgainst_fadd nan y ha (b := fNegate b) (by rwa [isFinite_fNegate])
  rwa [fGrid_fNegate, ← sub_eq_add_neg] at h

theorem roundsAgainst_fmul (nan y : F64) {a b : F64} (ha : isFinite a = true) (hb : isFinite b = true) :
    RoundsAgainst y gridOne (fGrid a * fGrid b) (fNeg a != fNeg b) (fmul nan a b) := by
  have hpos : (0 : Int) < gridOne := by exact_mod_cast gridOne_pos
  have hround := roundsAgainst_roundMag y (scale := gridOne) (exact := fGrid a * fGrid b) (neg := fNeg a != fNeg b)
    hpos.ne' (by
      have h := fGrid_mul_sign a b
      split_ifs at h ⊢
      · exact mul_nonpos_of_nonneg_of_nonpos hpos.le h
      · exact mul_nonneg hpos.le h)
  rwa [Int.natAbs_mul, fGrid_natAbs, fGrid_natAbs, Int.natAbs_natCast, ← fmul_finite nan ha hb] at hround

theorem fGrid_ne_zero {x : F64} (h : isZero x = false) : fGrid x ≠ 0 := by
  have hm : fMag x ≠ 0 := by simpa [isZero] using h
  rw [← Int.natAbs_ne_zero, fGrid_natAbs]
  exact (gridMag_pos (Nat.pos_of_ne_zero hm)).ne'

theorem roundsAgainst_fdiv (nan y : F64) {a b : F64} (ha : isFinite a = true) (hb : isFinite b = true)
    (hz : isZero b = false) :
    RoundsAgainst y (fGrid b) (fGrid a * gridOne) (fNeg a != fNeg b) (fdiv nan a b) := by
  have hpos : (0 : Int) < gridOne := by exact_mod_cast gridOne_pos
  have hround := roundsAgainst_roundMag y (scale := fGrid b) (exact := fGrid a * gridOne) (neg := fNeg a != fNeg b)
    (fGrid_ne_zero hz) (by
      have h := fGrid_mul_sign a b
      rw [show fGrid b * (fGrid a * gridOne) = fGrid a * fGrid b * gridOne by ring]
      split_ifs at h ⊢
      · exact mul_nonpos_of_nonpos_of_nonneg h hpos.le
      · exact mul_nonneg h hpos.le)
  rwa [Int.natAbs_mul, fGrid_natAbs, fGrid_natAbs, Int.natAbs_natCast, ← fdiv_finite nan ha hb hz] at hround

/-- A nonzero finite value over a zero is the infinity of the operands' sign. -/
theorem fdiv_isZero_right (nan : F64) {a b : F64} (ha : isFinite a = true) (hb : isFinite b = true) (hza : isZero a = false)
    (hzb : isZero b = true) : fdiv nan a b = mkF64 (fNeg a != fNeg b) infMag := by
  obtain ⟨h1, h2⟩ := (isFinite_iff a).1 ha
  obtain ⟨h3, h4⟩ := (isFinite_iff b).1 hb
  simp [fdiv, h1, h2, h3, h4, hza, hzb]

/-- Settles O54: each operation rounds a magnitude that lies between two halfway points of the grid. -/
theorem operationsRoundToNearest : Obligations.OperationsRoundToNearest := by
  intro nan a b y ha hb _ nearest rounds
  refine ⟨roundsAgainst_fadd nan y ha hb, roundsAgainst_fsub nan y ha hb, roundsAgainst_fmul nan y ha hb,
    roundsAgainst_fdiv nan y ha hb, fun hza hzb => ?_⟩
  rw [fdiv_isZero_right nan ha hb hza hzb, isInf, fMag_mkF64 _ _ infMag_lt, fNeg_mkF64 _ _ infMag_lt]
  exact ⟨beq_self_eq_true _, rfl⟩

end Sys2Proof.Machine
end

section
/-! When an operation answers a NaN (R14, D40): exactly on a NaN operand or an invalid combination, and then the drawn one. -/

namespace Sys2Proof.Machine

variable {nan a b : F64}

/-! ### Sum and difference -/

theorem fadd_of_isNaN (h : isNaN a = true ∨ isNaN b = true) : fadd nan a b = nan := by
  rcases h with h | h <;> simp [fadd, h]

theorem fadd_of_opposite_isInf (ha : isInf a = true) (hb : isInf b = true) (h : fNeg a ≠ fNeg b) :
    fadd nan a b = nan := by
  simp [fadd, ha, hb, h]

theorem isNaN_fadd_eq_false (ha : isNaN a = false) (hb : isNaN b = false)
    (h : isInf a = true → isInf b = true → fNeg a = fNeg b) : isNaN (fadd nan a b) = false := by
  cases hia : isInf a
  · cases hib : isInf b
    · rw [fadd_finite nan ((isFinite_iff a).2 ⟨ha, hia⟩) ((isFinite_iff b).2 ⟨hb, hib⟩)]
      split_ifs
      · exact isNaN_mkF64_of_le _ (Nat.zero_le _)
      · exact isNaN_mkF64_of_le _ (roundMag_le_infMag _ _)
    · simp [fadd, ha, hb, hia, hib]
  · have hsign : ¬ (isInf b = true ∧ fNeg a ≠ fNeg b) := fun hib => hib.2 (h hia hib.1)
    simp [fadd, ha, hb, hia, hsign]

theorem fsub_of_isNaN (h : isNaN a = true ∨ isNaN b = true) : fsub nan a b = nan :=
  fadd_of_isNaN (by rwa [isNaN_fNegate])

theorem fsub_of_like_isInf (ha : isInf a = true) (hb : isInf b = true) (h : fNeg a = fNeg b) :
    fsub nan a b = nan :=
  fadd_of_opposite_isInf ha (by rwa [isInf_fNegate]) (by simp [h])

theorem isNaN_fsub_eq_false (ha : isNaN a = false) (hb : isNaN b = false)
    (h : isInf a = true → isInf b = true → fNeg a ≠ fNeg b) : isNaN (fsub nan a b) = false :=
  isNaN_fadd_eq_false ha (by rwa [isNaN_fNegate]) fun hia hib => by
    rw [isInf_fNegate] at hib
    rw [fNeg_fNegate]
    exact Bool.eq_not_of_ne (h hia hib)

/-! ### Product and quotient -/

theorem isFinite_of_isZero (h : isZero a = true) : isFinite a = true := by
  simp only [isZero, isFinite, beq_iff_eq, decide_eq_true_eq] at *
  rw [h]; decide

theorem isInf_eq_false_of_isZero (h : isZero a = true) : isInf a = false := ((isFinite_iff a).1 (isFinite_of_isZero h)).2

theorem fmul_of_isNaN (h : isNaN a = true ∨ isNaN b = true) : fmul nan a b = nan := by
  rcases h with h | h <;> simp [fmul, h]

theorem fmul_of_isInf_isZero (h : (isInf a = true ∧ isZero b = true) ∨ (isZero a = true ∧ isInf b = true)) :
    fmul nan a b = nan := by
  rcases h with ⟨h, h'⟩ | ⟨h, h'⟩ <;> simp [fmul, h, h']

theorem isNaN_fmul_eq_false (ha : isNaN a = false) (hb : isNaN b = false)
    (h : ¬((isInf a = true ∧ isZero b = true) ∨ (isZero a = true ∧ isInf b = true))) :
    isNaN (fmul nan a b) = false := by
  unfold fmul
  simp only [ha, hb, Bool.or_self, Bool.false_eq_true, if_false]
  split_ifs with hinf hzero
  · exfalso
    rw [Bool.or_eq_true] at hinf hzero
    rcases hinf with hi | hi <;> rcases hzero with hz | hz
    · simp [isInf_eq_false_of_isZero hz] at hi
    · exact h (.inl ⟨hi, hz⟩)
    · exact h (.inr ⟨hz, hi⟩)
    · simp [isInf_eq_false_of_isZero hz] at hi
  · exact isNaN_mkF64_of_le _ le_rfl
  · exact isNaN_mkF64_of_le _ (roundMag_le_infMag _ _)

theorem fdiv_of_isNaN (h : isNaN a = true ∨ isNaN b = true) : fdiv nan a b = nan := by
  rcases h with h | h <;> simp [fdiv, h]

theorem fdiv_of_isInf (ha : isInf a = true) (hb : isInf b = true) : fdiv nan a b = nan := by
  simp [fdiv, ha, hb]

theorem fdiv_of_isZero (ha : isZero a = true) (hb : isZero b = true) : fdiv nan a b = nan := by
  simp [fdiv, ha, hb, isInf_eq_false_of_isZero ha, isInf_eq_false_of_isZero hb]

theorem isNaN_fdiv_eq_false (ha : isNaN a = false) (hb : isNaN b = false)
    (hinf : ¬(isInf a = true ∧ isInf b = true)) (hzero : ¬(isZero a = true ∧ isZero b = true)) :
    isNaN (fdiv nan a b) = false := by
  unfold fdiv
  simp only [ha, hb, Bool.or_self, Bool.false_eq_true, if_false]
  split_ifs with hia hib hib hzb hza
  · exact absurd ⟨hia, hib⟩ hinf
  · exact isNaN_mkF64_of_le _ le_rfl
  · exact isNaN_mkF64_of_le _ (Nat.zero_le _)
  · exact absurd ⟨hza, hzb⟩ hzero
  · exact isNaN_mkF64_of_le _ le_rfl
  · exact isNaN_mkF64_of_le _ (roundMag_le_infMag _ _)

/-- Settles O55: for each operation, the invalid combinations answer the draw and the others no NaN. -/
theorem naNResultsAreDraws : Obligations.NaNResultsAreDraws := by
  intro nan a b hnan bad badAdd badSub badMul badDiv
  have operands : ∀ {extra : Prop}, ¬(bad ∨ extra) → isNaN a = false ∧ isNaN b = false ∧ ¬extra := by
    intro extra h
    obtain ⟨hbad, hextra⟩ := not_or.1 h
    obtain ⟨ha, hb⟩ := not_or.1 hbad
    exact ⟨Bool.eq_false_of_not_eq_true ha, Bool.eq_false_of_not_eq_true hb, hextra⟩
  refine ⟨?_, ?_, ?_, ?_, ?_, ?_, ?_, ?_, asNaN_of_isNaN hnan, isNaN_nanDraw⟩
  · rintro (h | ⟨ha, hb, h⟩)
    · exact fadd_of_isNaN h
    · exact fadd_of_opposite_isInf ha hb h
  · intro h
    obtain ⟨ha, hb, h⟩ := operands h
    exact isNaN_fadd_eq_false ha hb fun hia hib => not_not.1 fun hne => h ⟨hia, hib, hne⟩
  · rintro (h | ⟨ha, hb, h⟩)
    · exact fsub_of_isNaN h
    · exact fsub_of_like_isInf ha hb h
  · intro h
    obtain ⟨ha, hb, h⟩ := operands h
    exact isNaN_fsub_eq_false ha hb fun hia hib heq => h ⟨hia, hib, heq⟩
  · rintro (h | h)
    · exact fmul_of_isNaN h
    · exact fmul_of_isInf_isZero h
  · intro h
    obtain ⟨ha, hb, h⟩ := operands h
    exact isNaN_fmul_eq_false ha hb h
  · rintro (h | ⟨ha, hb⟩ | ⟨ha, hb⟩)
    · exact fdiv_of_isNaN h
    · exact fdiv_of_isInf ha hb
    · exact fdiv_of_isZero ha hb
  · intro h
    obtain ⟨ha, hb, h⟩ := operands h
    exact isNaN_fdiv_eq_false ha hb (fun h' => h (.inl h')) (fun h' => h (.inr h'))

end Sys2Proof.Machine
end

section
/-! The integer conversion of R14, and the corner cases of `TEMP_C` (R135). -/

namespace Sys2Proof.Machine

/-- Settles O53: an integer below 2^53 is on the grid, so its rounding is exact. -/
theorem integerConversionIsExact : Obligations.IntegerConversionIsExact :=
  fun n h => ⟨isFinite_i2f h, fGrid_i2f h, fNeg_i2f n⟩

/-! ### Adding an infinity or a zero -/

theorem fadd_isInf_right (nan : F64) {a b : F64} (ha : isFinite a = true) (hb : isInf b = true) :
    fadd nan a b = b := by
  obtain ⟨hna, hia⟩ := (isFinite_iff a).1 ha
  have hnb : isNaN b = false := by
    simp only [isInf, isNaN, beq_iff_eq, decide_eq_false_iff_not] at *; omega
  simp [fadd, hna, hia, hnb, hb]

theorem isZero_iff_fGrid (x : F64) : isZero x = true ↔ fGrid x = 0 := by
  refine ⟨fun h => ?_, fun h => ?_⟩
  · rw [← Int.natAbs_eq_zero, fGrid_natAbs, show fMag x = 0 by simpa [isZero] using h, gridMag_zero]
  · by_contra hz
    exact fGrid_ne_zero (Bool.eq_false_of_not_eq_true hz) h

theorem decide_fGrid_neg {x : F64} (h : isZero x = false) : decide (fGrid x < 0) = fNeg x := by
  have hs := fGrid_sign x
  have hz := fGrid_ne_zero h
  cases hx : fNeg x <;> simp only [hx, if_true, Bool.false_eq_true, if_false] at hs <;> simp <;> omega

/-- Adding a zero changes no value but `-0.0`. -/
theorem fadd_isZero_right (nan : F64) {a z : F64} (ha : isFinite a = true) (hz : isZero z = true)
    (h : isZero a = true → fNeg a = false) : fadd nan a z = a := by
  rw [fadd_finite nan ha (isFinite_of_isZero hz), (isZero_iff_fGrid z).1 hz, add_zero]
  conv_rhs => rw [← mkF64_fMag a]
  cases hza : isZero a
  · have hmag : roundMag (gridMag (fMag a)) 1 = fMag a := by
      simpa using roundMag_exact (of_decide_eq_true ha).le Nat.one_pos
    rw [if_neg (fGrid_ne_zero hza), decide_fGrid_neg hza, fGrid_natAbs, hmag]
  · rw [if_pos ((isZero_iff_fGrid a).1 hza), h hza, Bool.false_and, show fMag a = 0 by simpa [isZero] using hza]

/-! ### The Celsius value (R133) -/

/-- A rounding to zero is of at most half the smallest positive binary64. -/
theorem le_of_roundMag_eq_zero {num den : Nat} (hd : 0 < den) (h : roundMag num den = 0) : 2 * num ≤ den := by
  have hbelow := (isRounding_roundMag hd (by rw [h]; decide)).below.1
  rw [h] at hbelow
  simpa [gridMag] using hbelow

theorem natAbs_toInt_lt (tf : Word32) : tf.toInt.natAbs < 2 ^ 53 := by
  have h1 := tf.toInt_lt
  have h2 := tf.le_toInt
  omega

theorem celsius_eq_fdiv (nan : F64) (tf : Word32) : celsius nan tf = fdiv nan (i2f tf.toInt) (i2f 5120) := rfl

theorem isFinite_i2f_5120 : isFinite (i2f 5120) = true := isFinite_i2f (by decide)

theorem gridMag_i2f_5120 : gridMag (fMag (i2f 5120)) = 5120 * gridOne := gridMag_i2f (by decide)

theorem isZero_i2f_5120 : isZero (i2f 5120) = false := by
  by_contra h
  have hmag : fMag (i2f 5120) = 0 := by simpa [isZero] using h
  have hgrid := gridMag_i2f_5120
  rw [hmag, gridMag_zero] at hgrid
  have := gridOne_pos
  omega

theorem isFinite_celsius (nan : F64) (tf : Word32) : isFinite (celsius nan tf) = true := by
  have hbound : fBound 53 (i2f tf.toInt) := fBound_i2f (natAbs_toInt_lt tf).le
  refine (fBound_fdiv nan hbound (by decide) isFinite_i2f_5120 ?_).finite (by decide)
  rw [gridMag_i2f_5120]; omega

/-- The Celsius value is the fine temperature's magnitude over 5120, rounded, under its sign. -/
theorem celsius_eq (nan : F64) (tf : Word32) : celsius nan tf =
    mkF64 (decide (tf.toInt < 0)) (roundMag (tf.toInt.natAbs * gridOne * gridOne) (5120 * gridOne)) := by
  rw [celsius_eq_fdiv, fdiv_finite nan (isFinite_i2f (natAbs_toInt_lt tf)) isFinite_i2f_5120 isZero_i2f_5120,
    gridMag_i2f (natAbs_toInt_lt tf), gridMag_i2f_5120, fNeg_i2f, fNeg_i2f 5120]
  simp

/-- Only the fine temperature 0 has a zero Celsius value: none underflows. -/
theorem toInt_eq_zero_of_isZero_celsius {nan : F64} {tf : Word32} (h : isZero (celsius nan tf) = true) :
    tf.toInt = 0 := by
  rw [celsius_eq, isZero, fMag_mkF64 _ _ (roundMag_lt _ _), beq_iff_eq] at h
  have hle := le_of_roundMag_eq_zero (Nat.mul_pos (by decide) gridOne_pos) h
  rw [← Nat.mul_assoc] at hle
  have hsmall : 2 * (tf.toInt.natAbs * gridOne) ≤ 5120 := Nat.le_of_mul_le_mul_right hle gridOne_pos
  have hbig : 2 ^ 13 ≤ gridOne := Nat.pow_le_pow_right (by decide) (by rw [gridExp_eq]; decide)
  by_contra hne
  have := Nat.le_mul_of_pos_left gridOne (Int.natAbs_pos.2 hne)
  omega

theorem celsius_zero (nan : F64) : celsius nan 0#32 = 0#64 := by
  rw [celsius_eq, show (0#32).toInt = 0 from rfl, Int.natAbs_zero, Nat.zero_mul, Nat.zero_mul,
    roundMag_zero (Nat.mul_pos (by decide) gridOne_pos)]
  rfl

/-- No Celsius value is `-0.0`. -/
theorem fNeg_celsius_of_isZero {nan : F64} {tf : Word32} (h : isZero (celsius nan tf) = true) :
    fNeg (celsius nan tf) = false := by
  rw [celsius_eq, fNeg_mkF64 _ _ (roundMag_lt _ _), toInt_eq_zero_of_isZero_celsius h]
  rfl

/-- Settles O22: the Celsius value is finite and never `-0.0`, so the offset's corner cases are those of one addition. -/
theorem offsetCornerCases : Obligations.OffsetCornerCases := by
  intro nan tf x hnan
  have hzero : ∀ z, isZero z = true → tempWithOffset nan tf z = celsius (nan 0) tf := fun z hz =>
    fadd_isZero_right (nan 1) (isFinite_celsius _ _) hz fNeg_celsius_of_isZero
  refine ⟨celsius_zero _, fun hx => ?_, fadd_isInf_right (nan 1) (isFinite_celsius _ _), hzero _ (by decide),
    hzero _ (by decide)⟩
  rw [tempWithOffset, fadd_of_isNaN (.inr hx)]
  exact hnan 1

end Sys2Proof.Machine
end

section
/-! What a step does with an access to a mapped port register (R274, R60). -/

namespace Sys2Proof.Machine

variable {s : State} {offset width : Nat} {p : Port} {rest : List HostMove}

/-- A step with a write of a mapped port pending is that port's write. -/
theorem step_write {x : Word64} (hw : s.cfg.wf = true) (hp : portAt offset width = some p)
    (hh : s.host = .write offset width x :: rest) : step s = hostWrite p x (s.setHost rest) := by
  simp [step_move hw hh, hostMove, hp]

/-- A step with a read of a mapped port pending appends that port's reply, and changes nothing else but the host's list. -/
theorem step_read (hw : s.cfg.wf = true) (hp : portAt offset width = some p)
    (hh : s.host = .read offset width :: rest) :
    step s = .next ((s.setHost rest).addReply (hostRead p (s.setHost rest))) := by
  simp [step_move hw hh, hostMove, hp]

/-- Settles O7: RESULT and STATUS are the two ports whose write answers the state it is given, and CMD's reply is 0. -/
theorem readOnlyPortsIgnoreWrites : Obligations.ReadOnlyPortsIgnoreWrites := by
  intro s rest hw
  refine ⟨fun x hh => ?result, fun x hh => ?status, fun hh => ?cmd⟩
  case result => exact step_write (p := .result) hw rfl hh
  case status => exact step_write (p := .status) hw rfl hh
  case cmd => exact step_read (p := .cmd) hw rfl hh

end Sys2Proof.Machine
end

section
/-! The words outside the opcode map, as ranges of the word's value (R81, R83, R88). -/

namespace Sys2Proof

/-- The reserved field is the word's value above its low byte. -/
theorem reservedClear_iff_toNat (w : Word32) : reservedClear w = true ↔ w.toNat < 0x100 := by
  have hw := w.isLt
  simp only [reservedClear, beq_iff_eq, ← BitVec.toNat_inj, BitVec.extractLsb'_toNat,
    BitVec.ofNat_eq_ofNat, BitVec.toNat_ofNat, Nat.shiftRight_eq_div_pow]
  omega

theorem opcField_toNat (w : Word32) : (opcField w).toNat = w.toNat % 0x100 := by
  simp [opcField]

/-- The opcodes that the table of R83 leaves out. -/
theorem instrOfOpcode_eq_none_iff (op : Byte) : instrOfOpcode op = none ↔
    op.toNat = 0 ∨ (0x04 ≤ op.toNat ∧ op.toNat ≤ 0x0F) ∨ (0x16 ≤ op.toNat ∧ op.toNat ≤ 0x1F) ∨ 0x21 ≤ op.toNat := by
  revert op
  decide +kernel

/-- The decoder rejects a word for its reserved field or for its opcode (R82). -/
theorem decode_error_iff (w : Word32) :
    (∃ e, decode w = .error e) ↔ reservedClear w = false ∨ instrOfOpcode (opcField w) = none := by
  unfold decode
  cases reservedClear w
  · simp
  · cases instrOfOpcode (opcField w) <;> simp

/-- The illegal words of R88 by their value. -/
theorem decode_error_iff_toNat (w : Word32) : (∃ e, decode w = .error e) ↔
    0x100 ≤ w.toNat ∨ w.toNat = 0 ∨ (0x04 ≤ w.toNat ∧ w.toNat ≤ 0x0F) ∨ (0x16 ≤ w.toNat ∧ w.toNat ≤ 0x1F) ∨
      (0x21 ≤ w.toNat ∧ w.toNat ≤ 0xFF) := by
  have hrsv : reservedClear w = false ↔ 0x100 ≤ w.toNat := by
    rw [← Bool.not_eq_true, reservedClear_iff_toNat, not_lt]
  rw [decode_error_iff, hrsv, instrOfOpcode_eq_none_iff, opcField_toNat]
  omega

namespace Machine

/-- With no fault recorded, the issue of a word that the decoder rejects is the fault `E_ILLEGAL` (R88). -/
theorem issue_of_decode_error {s : State} {w : Word32} {e : DecodeError} (hf : faultBit s.status = false)
    (hd : decode w = .error e) : issue w s = .next (raiseFault .illegal (opcField w) s) := by
  simp [issue, hf, hd]

/-- Settles O3: the ranges of R88 are the words that the decoder rejects, and the issue of a rejected word raises
`E_ILLEGAL` and nothing else. -/
theorem illegalWordsRaise : Obligations.IllegalWordsRaise := by
  intro s w rest hw hh hf illegal
  have hill : (∃ e, decode w = .error e) ↔ illegal := decode_error_iff_toNat w
  refine ⟨fun h => ?raises, fun h => ?decodes⟩
  case raises =>
    obtain ⟨e, hd⟩ := hill.2 h
    have hf' : faultBit (s.setHost rest).status = false := hf
    exact ⟨_, (step_cmdWrite hw hh).trans (issue_of_decode_error hf' hd), raiseFault_records .illegal (opcField w) hf'⟩
  case decodes =>
    cases hd : decode w with
    | ok i => exact ⟨i, rfl⟩
    | error e => exact absurd (hill.1 ⟨e, hd⟩) h

end Machine
end Sys2Proof
end

section
/-! The two outcomes of BEGIN past its gate (R110, R111). -/

namespace Sys2Proof.Machine

variable {s : State}

theorem execBegin_of_match (hv : calValid s.status = false) (hw : s.cfg.wf = true) (hi : identityByte s = s.cfg.idVal) :
    execBegin s = .next (loadCalibration s) := by
  rw [execBegin, hv, if_neg (by decide), withBus_wf hw, identify, if_pos hi]

theorem execBegin_of_mismatch (hv : calValid s.status = false) (hw : s.cfg.wf = true)
    (hi : identityByte s ≠ s.cfg.idVal) : execBegin s = .next ((afterIdentity s).setResult 0) := by
  rw [execBegin, hv, if_neg (by decide), withBus_wf hw, identify, if_neg hi]

/-- Settles O14: a mismatch leaves CAL_VALID and the configuration as they were, so the gate is open to a second BEGIN. -/
theorem beginReportsAnIdentityMismatch : Obligations.BeginReportsAnIdentityMismatch := by
  intro s hv hw hi
  refine ⟨(afterIdentity s).setResult 0, execBegin_of_mismatch hv hw hi, ?frame, fun hmatch => ?again⟩
  case frame => rw [← busBytes_one]; rfl
  case again => exact ⟨_, execBegin_of_match hv hw hmatch, by simp, rfl⟩

end Sys2Proof.Machine
end

section
/-! GETCAL by its index: the coefficients as 64-bit words, in the order of R24 (R113). -/

namespace Sys2Proof.Machine

variable {s : State} {c : Calibration}

/-- The words GETCAL answers, by index: each coefficient register extended by its own signedness (R24). -/
def coefficientWords (c : Calibration) : List Word64 :=
  [c.digT1.setWidth 64, c.digT2.signExtend 64, c.digT3.signExtend 64,
    c.digP1.setWidth 64, c.digP2.signExtend 64, c.digP3.signExtend 64, c.digP4.signExtend 64, c.digP5.signExtend 64,
    c.digP6.signExtend 64, c.digP7.signExtend 64, c.digP8.signExtend 64, c.digP9.signExtend 64,
    c.digH1.setWidth 64, c.digH2.signExtend 64, c.digH3.setWidth 64, c.digH4.signExtend 64, c.digH5.signExtend 64,
    c.digH6.signExtend 64]

theorem coefficient_eq_none {i : Nat} (h : 17 < i) : coefficient c i = none := by
  obtain ⟨k, rfl⟩ := Nat.exists_eq_add_of_lt h
  rw [show 17 + k + 1 = k + 18 by omega]
  rfl

/-- A coefficient's integer as a 64-bit two's complement word is its register zero- or sign-extended. -/
theorem coefficient_map_ofInt {i : Nat} (h : i ≤ 17) :
    (coefficient c i).map (BitVec.ofInt 64) = some ((coefficientWords c).getD i 0) := by
  interval_cases i <;> simp [coefficient, coefficientWords, BitVec.signExtend]

theorem execGetCal_of_index (hv : calValid s.status = true) (hc : s.cal = some c) (h : s.arg.toNat ≤ 17) :
    execGetCal s = .next (s.setResult ((coefficientWords c).getD s.arg.toNat 0)) := by
  obtain ⟨v, hcoef, hword⟩ := Option.map_eq_some_iff.1 (coefficient_map_ofInt (c := c) h)
  simp [execGetCal, withCalibration_open hv hc, indexOperand, hcoef, hword]

theorem execGetCal_of_index_gt (hv : calValid s.status = true) (hc : s.cal = some c) (h : 17 < s.arg.toNat) :
    execGetCal s = .next (raiseFault .operand Instr.getCal.opcode s) := by
  simp [execGetCal, withCalibration_open hv hc, indexOperand, coefficient_eq_none h]

/-- Settles O15: the gate and the index check each raise their fault, and an index below 18 picks its register. -/
theorem getCalReadsACoefficient : Obligations.GetCalReadsACoefficient := by
  intro s
  refine ⟨fun hv hf => ?gate, fun c hv hc hi hf => ?operand, fun c hv hc hi => ?reads⟩
  case gate => exact ⟨_, withCalibration_shut hv _, raiseFault_records .noCal Instr.getCal.opcode hf⟩
  case operand => exact ⟨_, execGetCal_of_index_gt hv hc hi, raiseFault_records .operand Instr.getCal.opcode hf⟩
  case reads => exact execGetCal_of_index hv hc hi

end Sys2Proof.Machine
end

section
/-! The coefficients as integers of their bytes (R101, R102, R104). -/

namespace Sys2Proof.Machine

theorem le16_toNat (b : List Byte) (k : Nat) :
    ((le16 b k).toNat : Int) = (byteAt b k).toNat + 256 * (byteAt b (k + 1)).toNat := by
  rw [le16, BitVec.toNat_append, ← Nat.shiftLeft_add_eq_or_of_lt (byteAt b k).isLt, Nat.shiftLeft_eq]
  omega

theorem le16_toInt (b : List Byte) (k : Nat) :
    (le16 b k).toInt = ((byteAt b k).toNat + 256 * (byteAt b (k + 1)).toNat : Int).bmod 65536 := by
  rw [BitVec.toInt_eq_toNat_bmod, le16_toNat]

/-- A byte above a nibble, as a 12-bit two's complement value: the sign is the byte's (R104). -/
theorem toInt_byte_append_nibble (hi : Byte) (lo : BitVec 4) :
    (hi ++ lo : BitVec 12).toInt = hi.toInt * 16 + lo.toNat := by
  have happend := BitVec.toInt_append (x := hi) (y := lo)
  rw [if_neg (by decide), Int.mul_comm] at happend
  exact happend

/-- `DIG_H4` takes the low nibble of the shared byte (R104). -/
theorem decodeCal_digH4_toInt (b1 b2 : List Byte) :
    (decodeCal b1 b2).digH4.toInt = (byteAt b2 3).toInt * 16 + (byteAt b2 4).toNat % 16 := by
  rw [decodeCal, toInt_byte_append_nibble, BitVec.extractLsb'_toNat, Nat.shiftRight_zero]
  rfl

/-- `DIG_H5` takes the high nibble of the shared byte (R104). -/
theorem decodeCal_digH5_toInt (b1 b2 : List Byte) :
    (decodeCal b1 b2).digH5.toInt = (byteAt b2 5).toInt * 16 + (byteAt b2 4).toNat / 16 := by
  have hbyte := (byteAt b2 4).isLt
  rw [decodeCal, toInt_byte_append_nibble, BitVec.extractLsb'_toNat, Nat.shiftRight_eq_div_pow]
  omega

/-- Settles O16: the words of R102's table by `le16`, the packed pair by its nibbles, the four byte registers as they
stand. -/
theorem coefficientsDecodeAsTabulated : Obligations.CoefficientsDecodeAsTabulated := by
  intro b1 b2 word signed c
  have hword (b : List Byte) (k : Nat) : some ((le16 b k).toNat : Int) = some (word b k) :=
    congrArg some (le16_toNat b k)
  have hsigned (b : List Byte) (k : Nat) : some (le16 b k).toInt = some (signed b k) :=
    congrArg some (le16_toInt b k)
  exact ⟨hword b1 0, hsigned b1 2, hsigned b1 4,
    hword b1 6, hsigned b1 8, hsigned b1 10, hsigned b1 12, hsigned b1 14, hsigned b1 16, hsigned b1 18, hsigned b1 20,
    hsigned b1 22,
    rfl, hsigned b2 0, rfl, congrArg some (decodeCal_digH4_toInt b1 b2), congrArg some (decodeCal_digH5_toInt b1 b2),
    rfl⟩

end Sys2Proof.Machine
end

section
/-! SETTEMPCAL (R137) and TCOMP (R131): each operator of the 32-bit formula, read as an operation on integers. -/

namespace Sys2Proof.Machine

/-- Settles O19: SETTEMPCAL has no gate, and its operand is ARG's own bits. -/
theorem setTempCalStoresTheOffset : Obligations.SetTempCalStoresTheOffset := fun _ => rfl

/-! ### The operators of R13 at any width -/

theorem toInt_setWidth_of_lt {n m : Nat} (x : BitVec n) (h : n < m) : (x.setWidth m).toInt = x.toNat := by
  rw [← BitVec.setWidth'_eq h.le, BitVec.toInt_setWidth'_of_lt h]

/-- The arithmetic shift divides, rounding down. -/
theorem toInt_sshiftRight_eq_div {n : Nat} (x : BitVec n) (k : Nat) : (x.sshiftRight k).toInt = x.toInt / 2 ^ k := by
  rw [BitVec.toInt_sshiftRight, Int.shiftRight_eq_div_pow, Nat.cast_pow, Nat.cast_ofNat]

/-- The left shift is the wrapped product with a power of two. -/
theorem toInt_shiftLeft_eq_bmod {n : Nat} (x : BitVec n) (k : Nat) :
    (x <<< k).toInt = (x.toInt * 2 ^ k).bmod (2 ^ n) := by
  rw [BitVec.toInt_shiftLeft, BitVec.toInt_eq_toNat_bmod, Int.bmod_mul_bmod, Nat.shiftLeft_eq,
    Nat.cast_mul, Nat.cast_pow, Nat.cast_ofNat]

/-! ### TCOMP, term by term -/

theorem tcompLinear_toInt (adc : BitVec 20) (t1 t2 : Word16) :
    (tcompLinear adc t1 t2).toInt =
      ((((adc.toNat : Int) / 8 - ((t1.toNat : Int) * 2).bmod (2 ^ 32)).bmod (2 ^ 32)) * t2.toInt).bmod (2 ^ 32) / 2048 := by
  rw [tcompLinear, toInt_sshiftRight_eq_div, BitVec.toInt_mul, BitVec.toInt_sub, toInt_sshiftRight_eq_div,
    toInt_shiftLeft_eq_bmod, toInt_setWidth_of_lt adc (by decide), toInt_setWidth_of_lt t1 (by decide),
    BitVec.toInt_signExtend_of_le (by decide)]
  rfl

/-- The difference that the quadratic term squares. -/
theorem tcompDifference_toInt (adc : BitVec 20) (t1 : Word16) :
    ((adc.setWidth 32).sshiftRight 4 - t1.setWidth 32).toInt = ((adc.toNat : Int) / 16 - t1.toNat).bmod (2 ^ 32) := by
  rw [BitVec.toInt_sub, toInt_sshiftRight_eq_div, toInt_setWidth_of_lt adc (by decide),
    toInt_setWidth_of_lt t1 (by decide)]
  rfl

theorem tcompQuadratic_toInt (adc : BitVec 20) (t1 t3 : Word16) (d : Int)
    (hd : d = ((adc.toNat : Int) / 16 - t1.toNat).bmod (2 ^ 32)) :
    (tcompQuadratic adc t1 t3).toInt = ((d * d).bmod (2 ^ 32) / 4096 * t3.toInt).bmod (2 ^ 32) / 16384 := by
  rw [tcompQuadratic, toInt_sshiftRight_eq_div, BitVec.toInt_mul, toInt_sshiftRight_eq_div, BitVec.toInt_mul,
    tcompDifference_toInt, ← hd, BitVec.toInt_signExtend_of_le (by decide)]
  rfl

/-- Settles O20: the wrapped sum of the linear and the quadratic term. -/
theorem tcompIsTheIntegerFormula : Obligations.TcompIsTheIntegerFormula := by
  intro adc c wrap a t1 var1 d var2
  rw [tcomp, BitVec.toInt_add, tcompLinear_toInt, tcompQuadratic_toInt adc c.digT1 c.digT3 d rfl]

end Sys2Proof.Machine
end

section
/-! PCOMP (R151): each operator of the 64-bit formula, read as an operation on integers, one lemma per step. -/

namespace Sys2Proof.Machine

/-- `wrap_64` of R12: the integer whose 64-bit two's complement word is that of `x`. -/
abbrev wrap64 (x : Int) : Int := x.bmod (2 ^ 64)

theorem toInt_signExtend_coefficient (x : Word16) : (x.signExtend 64).toInt = x.toInt :=
  BitVec.toInt_signExtend_of_le (by decide)

/-- A word's low bits, unsigned, are its two's complement value modulo their count. -/
theorem toNat_setWidth_eq_toInt_emod {n m : Nat} (x : BitVec n) (h : m ≤ n) :
    ((x.setWidth m).toNat : Int) = x.toInt % 2 ^ m := by
  have hdvd : ((2 : Int) ^ m) ∣ ((2 ^ n : Nat) : Int) := by
    rw [Nat.cast_pow, Nat.cast_ofNat]
    exact pow_dvd_pow 2 h
  rw [BitVec.toNat_setWidth, Int.natCast_mod, Nat.cast_pow, Nat.cast_ofNat, BitVec.toInt_eq_toNat_bmod,
    ← Int.emod_emod_of_dvd (Int.bmod _ _) hdvd, Int.bmod_emod, Int.emod_emod_of_dvd _ hdvd]

theorem pcompOffset_toInt (tf : Word32) : (pcompOffset tf).toInt = wrap64 (tf.toInt - 128000) := by
  rw [pcompOffset, BitVec.toInt_sub, BitVec.toInt_signExtend_of_le (by decide)]
  rfl

theorem pcompV2_toInt (v1 : Word64) (c : Calibration) :
    (pcompV2 v1 c).toInt =
      wrap64 (wrap64 (wrap64 (wrap64 (v1.toInt * v1.toInt) * c.digP6.toInt) +
        wrap64 (wrap64 (v1.toInt * c.digP5.toInt) * 2 ^ 17)) + wrap64 (c.digP4.toInt * 2 ^ 35)) := by
  simp only [pcompV2, BitVec.toInt_add, BitVec.toInt_mul, toInt_shiftLeft_eq_bmod, toInt_signExtend_coefficient]

/-- The second `v1` of R151, added to `2^47`. -/
theorem pcompScale_toInt (v1 : Word64) (c : Calibration) :
    (pcompScale v1 c).toInt =
      wrap64 (2 ^ 47 + wrap64 (wrap64 (wrap64 (v1.toInt * v1.toInt) * c.digP3.toInt) / 2 ^ 8 +
        wrap64 (wrap64 (v1.toInt * c.digP2.toInt) * 2 ^ 12))) := by
  have hbase : (1#64 <<< 47).toInt = 2 ^ 47 := by decide
  rw [pcompScale, BitVec.toInt_add, hbase]
  simp only [BitVec.toInt_add, BitVec.toInt_mul, toInt_shiftLeft_eq_bmod, toInt_sshiftRight_eq_div,
    toInt_signExtend_coefficient]

/-- `DIG_P1` is unsigned (R24). -/
theorem pcompDenominator_toInt (v1 : Word64) (c : Calibration) :
    (pcompDenominator v1 c).toInt = wrap64 ((pcompScale v1 c).toInt * c.digP1.toNat) / 2 ^ 33 := by
  rw [pcompDenominator, toInt_sshiftRight_eq_div, BitVec.toInt_mul, toInt_setWidth_of_lt c.digP1 (by decide)]

/-- The outer wrap is the one quotient that leaves the signed range, `-2^63` by `-1`. -/
theorem pcompQuotient_toInt (adc : BitVec 20) (v2 den : Word64) :
    (pcompQuotient adc v2 den).toInt =
      wrap64 ((wrap64 (wrap64 (wrap64 (wrap64 (1048576 - adc.toNat) * 2 ^ 31) - v2.toInt) * 3125)).tdiv den.toInt) := by
  rw [pcompQuotient, BitVec.toInt_sdiv, BitVec.toInt_mul, BitVec.toInt_sub, toInt_shiftLeft_eq_bmod, BitVec.toInt_sub,
    toInt_setWidth_of_lt adc (by decide)]
  rfl

theorem pcompCorrect_toInt (p : Word64) (c : Calibration) :
    (pcompCorrect p c).toInt =
      wrap64 (wrap64 (wrap64 (p.toInt +
          wrap64 (wrap64 (c.digP9.toInt * (p.toInt / 2 ^ 13)) * (p.toInt / 2 ^ 13)) / 2 ^ 25) +
          wrap64 (c.digP8.toInt * p.toInt) / 2 ^ 19) / 2 ^ 8 +
        wrap64 (c.digP7.toInt * 2 ^ 4)) := by
  simp only [pcompCorrect, BitVec.toInt_add, BitVec.toInt_mul, toInt_shiftLeft_eq_bmod, toInt_sshiftRight_eq_div,
    toInt_signExtend_coefficient]

theorem pcomp_of_denominator_eq_zero (adc : BitVec 20) {tf : Word32} {c : Calibration}
    (h : pcompDenominator (pcompOffset tf) c = 0) : pcomp adc tf c = (0, true) :=
  if_pos h

theorem pcomp_of_denominator_ne_zero (adc : BitVec 20) {tf : Word32} {c : Calibration}
    (h : pcompDenominator (pcompOffset tf) c ≠ 0) :
    pcomp adc tf c =
      ((pcompCorrect (pcompQuotient adc (pcompV2 (pcompOffset tf) c) (pcompDenominator (pcompOffset tf) c))
        c).setWidth 32, false) :=
  if_neg h

/-- Settles O23: each word of the model is its integer of R151, step by step; the branch is the denominator's. -/
theorem pcompIsTheIntegerFormula : Obligations.PcompIsTheIntegerFormula := by
  intro adc tf c w offset v2Square v2Linear v2 scale den p0 quotient u1 u2 p
  have hoffset : (pcompOffset tf).toInt = offset := pcompOffset_toInt tf
  have hv2 : (pcompV2 (pcompOffset tf) c).toInt = v2 := by rw [pcompV2_toInt, hoffset]
  have hden : (pcompDenominator (pcompOffset tf) c).toInt = den := by
    rw [pcompDenominator_toInt, pcompScale_toInt, hoffset]
  have hquotient :
      (pcompQuotient adc (pcompV2 (pcompOffset tf) c) (pcompDenominator (pcompOffset tf) c)).toInt = quotient := by
    rw [pcompQuotient_toInt, hv2, hden]
  have hzero : den = 0 ↔ pcompDenominator (pcompOffset tf) c = 0 := by
    rw [← hden, ← BitVec.toInt_zero (w := 64), BitVec.toInt_inj]
    rfl
  refine ⟨fun h => pcomp_of_denominator_eq_zero adc (hzero.1 h), fun h => ?available⟩
  case available =>
    rw [pcomp_of_denominator_ne_zero adc (mt hzero.2 h)]
    refine ⟨rfl, ?_⟩
    rw [toNat_setWidth_eq_toInt_emod _ (by decide), pcompCorrect_toInt, hquotient]

end Sys2Proof.Machine
end

section
/-! HCOMP (R171): the model's named steps are the lines of the formula, and CLAMP (R172) is applied to the last. -/

namespace Sys2Proof.Machine

/-- Settles O26: the temperature terms `x6` and `o` first, then the raw humidity corrected with them, then CLAMP. Each
step of the model is its line of R171 by definition, with the same draw for each operation. -/
theorem hcompIsTheFloatFormula : Obligations.HcompIsTheFloatFormula := by
  intro n adc tf c h1 h2 h3 h4 h5 h6 v x3 x6 f o raw corrected
  have hf : hcompF n (hcompX6 n v (hcompX3 n v h3) h6) h2 = f := rfl
  have ho : hcompO n v h4 h5 = o := rfl
  have hcorrected : hcompCorrect n (hcompRaw n adc o f) h1 = corrected := rfl
  calc hcomp n adc tf c
      = clamp (hcompCorrect n
          (hcompRaw n adc (hcompO n v h4 h5) (hcompF n (hcompX6 n v (hcompX3 n v h3) h6) h2)) h1) := rfl
    _ = clamp corrected := by rw [ho, hf, hcorrected]
    _ = if fgt corrected (f64 100) then f64 100 else if flt corrected (f64 0) then f64 0 else corrected := rfl

end Sys2Proof.Machine
end

section
/-! The raw values as sums of the burst's bytes (R212). -/

namespace Sys2Proof.Machine

/-- A byte put below a word shifts the word up by eight bits. -/
theorem toNat_append_byte {n : Nat} (hi : BitVec n) (lo : Byte) : (hi ++ lo).toNat = hi.toNat * 256 + lo.toNat := by
  rw [BitVec.toNat_append, ← Nat.shiftLeft_add_eq_or_of_lt lo.isLt, Nat.shiftLeft_eq]

/-- Bits 23:4 of three bytes, most significant first: the low nibble of the last byte drops out. -/
theorem toNat_upperTwenty (msb lsb xlsb : Byte) :
    ((msb ++ lsb ++ xlsb).extractLsb' 4 20).toNat = msb.toNat * 4096 + lsb.toNat * 16 + xlsb.toNat / 16 := by
  have hmsb := msb.isLt
  have hlsb := lsb.isLt
  have hxlsb := xlsb.isLt
  rw [BitVec.extractLsb'_toNat, toNat_append_byte, toNat_append_byte, Nat.shiftRight_eq_div_pow]
  omega

/-- Settles O29: pressure and temperature are three bytes cut to their upper twenty bits, humidity is two whole bytes. -/
theorem rawSampleAssembly : Obligations.RawSampleAssembly := fun _ =>
  ⟨toNat_upperTwenty _ _ _, toNat_upperTwenty _ _ _, toNat_append_byte _ _⟩

end Sys2Proof.Machine
end

section
/-! The accessors that answer a snapshot register as it stands: GETTEMPC (R220), GETHUM (R222), GETPRESS (R223). -/

namespace Sys2Proof.Machine

/-- With no snapshot, an accessor's gate records `E_NOSAMPLE` against the accessor's opcode (R245). -/
theorem withSnapshot_records_noSample {s : State} (i : Instr) (k : Snapshot → Result)
    (hv : sampleValid s.status = false) (hf : faultBit s.status = false) :
    ∃ t, withSnapshot i s k = .next t ∧ RecordsFault s t 0x05 i.opcode :=
  ⟨_, withSnapshot_shut hv k, raiseFault_records .noSample i.opcode hf⟩

/-- Settles O33: the gate either records its fault or passes the snapshot to the one write of RESULT. -/
theorem getTempCReturnsTheSnapshot : Obligations.GetTempCReturnsTheSnapshot := fun _ =>
  ⟨withSnapshot_records_noSample .getTempC _, fun _ hv hm => withSnapshot_open hv hm _⟩

/-- Settles O34: the gate and the one write of RESULT, as for GETTEMPC; the range is a part of the snapshot invariant. -/
theorem getHumReturnsTheSnapshot : Obligations.GetHumReturnsTheSnapshot := by
  intro s
  refine ⟨withSnapshot_records_noSample .getHum _, fun m hv hm => ⟨withSnapshot_open hv hm _, fun hinv => ?range⟩⟩
  case range =>
    obtain ⟨hhum, -, -⟩ := hinv m hm
    exact hhum

/-- Settles O35: the gate and the one write of RESULT, as for GETTEMPC. -/
theorem getPressReturnsTheSnapshot : Obligations.GetPressReturnsTheSnapshot := fun _ =>
  ⟨withSnapshot_records_noSample .getPress _, fun _ hv hm => withSnapshot_open hv hm _⟩

end Sys2Proof.Machine
end

section
/-! The engine with a fault recorded: the issue of a word does nothing, and STATUS stays (R42, R250). -/

namespace Sys2Proof.Machine

variable {s t : State} {w : Word32} {m : HostMove} {rest : List HostMove}

theorem issue_of_faulted (hf : faultBit s.status = true) : issue w s = .next s := by
  simp [issue, hf]

/-- While a fault is recorded, an interaction but reset either ignores a word or touches ARG or the replies alone. -/
theorem hostMove_keeps_faulted_status (hf : faultBit s.status = true) (hm : m ≠ .reset)
    (h : hostMove m s = .next t) : t.status = s.status := by
  obtain ⟨hreset, -⟩ | ⟨r, rfl⟩ | ⟨x, rfl⟩ | rfl | ⟨i, hclear, -⟩ | ⟨op, hclear, -⟩ := hostMove_next h
  · exact absurd hreset hm
  · rfl
  · rfl
  · rfl
  · simp [hf] at hclear
  · simp [hf] at hclear

/-- Settles O6: the issue of a word is the only access that FAULT changes; the others answer as in any state. -/
theorem faultedEngineIgnoresCommands : Obligations.FaultedEngineIgnoresCommands := by
  intro s rest hw hf
  refine ⟨fun w hh => ?ignored, fun hh => ?readResult, fun hh => ?readStatus, fun hh => ?readArg, fun x hh => ?writeArg,
    fun m t hh hm h => ?keepsStatus, fun hend => ?notNormal⟩
  case ignored => exact (step_cmdWrite hw hh).trans (issue_of_faulted hf)
  case readResult => exact step_read (p := .result) hw rfl hh
  case readStatus => exact step_read (p := .status) hw rfl hh
  case readArg => exact step_read (p := .arg) hw rfl hh
  case writeArg => exact step_write (p := .arg) hw rfl hh
  case keepsStatus =>
    rw [step_move hw hh] at h
    exact hostMove_keeps_faulted_status (s := s.setHost rest) hf hm h
  case notNormal =>
    obtain ⟨-, hclear⟩ := hend
    simp [hf] at hclear

end Sys2Proof.Machine
end

section
/-! What a fault writes (R247), and the order of the checks that raise one (R248). -/

namespace Sys2Proof.Machine

variable {s : State}

/-- Settles O42: FAULT chooses between the three writes and none. -/
theorem aFaultWritesOnlyItsRecord : Obligations.AFaultWritesOnlyItsRecord := fun _ c op =>
  ⟨raiseFault_records c op, fun hf => raiseFault_of_faulted hf c op⟩

/-! ### The checks, command by command -/

/-- A loaded calibration shuts BEGIN's gate (R244). -/
theorem execBegin_shut (hv : calValid s.status = true) :
    execBegin s = .next (raiseFault .reinit Instr.begin.opcode s) := by
  simp [execBegin, hv]

/-- Every accessor is a use of the snapshot gate under its own name (R245). -/
theorem exec_eq_withSnapshot {i : Instr} (ha : isAccessor i = true) : ∃ k, exec i s = withSnapshot i s k := by
  cases i with
  | getTempC | getTempF | getHum | getPress | getAlt | getDewPt => exact ⟨_, rfl⟩
  | begin | setTempCal | poll | getCal => simp [isAccessor] at ha

/-- Past its gate GETALT faults on either zero (R246). -/
theorem execGetAlt_of_zero {m : Snapshot} (hv : sampleValid s.status = true) (hm : s.snap = some m)
    (hz : s.arg = 0#64 ∨ s.arg = 0x8000000000000000#64) :
    execGetAlt s = .next (raiseFault .altP0Zero Instr.getAlt.opcode s) := by
  have hp0 : feq (floatOperand s) (f64 0) = true := by
    rw [feq_zero]
    exact (isZero_iff s.arg).2 hz
  simp [execGetAlt, withSnapshot_open hv hm, hp0]

/-- Settles O43: each clause is the branch its hypotheses select, and that branch raises the clause's code; a gate's
branch does not look at ARG. -/
theorem faultPriority : Obligations.FaultPriority := by
  intro s hw hf
  have records (c : FaultCode) (op : Byte) : RecordsFault s (raiseFault c op s) c.code op := raiseFault_records c op hf
  obtain ⟨getCalGate, getCalOperand, -⟩ := getCalReadsACoefficient s
  refine ⟨fun w rest e hh hd => ?decode, fun hv => ?reinit, fun hv => ⟨?poll, getCalGate hv hf⟩, fun hv i ha => ?accessor,
    fun c hv hc hi => getCalOperand c hv hc hi hf, fun m hv hm hz => ?altitude⟩
  case decode =>
    obtain ⟨raises, -⟩ := illegalWordsRaise s w rest hw hh hf
    exact raises ((decode_error_iff_toNat w).1 ⟨e, hd⟩)
  case reinit => exact ⟨_, execBegin_shut hv, records .reinit _⟩
  case poll => exact ⟨_, withCalibration_shut hv _, records .noCal _⟩
  case accessor =>
    obtain ⟨k, hk⟩ := exec_eq_withSnapshot (s := s) ha
    rw [hk]
    exact withSnapshot_records_noSample i k hv hf
  case altitude => exact ⟨_, execGetAlt_of_zero hv hm hz, records .altP0Zero _⟩

end Sys2Proof.Machine
end

section
/-! A command and its word determine each other (R80 to R83). -/

namespace Sys2Proof

theorem decode_encode (i : Instr) : decode (encode i) = .ok i := by
  simp [decode, reservedClear_encode, opcField_encode, instrOfOpcode_opcode]

/-- A word that decodes has a clear reserved field and an opcode of the map. -/
theorem fields_of_decode_ok {w : Word32} {i : Instr} (h : decode w = .ok i) :
    reservedClear w = true ∧ instrOfOpcode (opcField w) = some i := by
  unfold decode at h
  split at h
  · split at h <;> cases h
    exact ⟨by assumption, by assumption⟩
  · cases h

theorem eq_encode_of_decode_ok {w : Word32} {i : Instr} (h : decode w = .ok i) : w = encode i := by
  obtain ⟨hrsv, hopc⟩ := fields_of_decode_ok h
  rw [eq_of_reservedClear hrsv, opcode_of_instrOfOpcode hopc, encode]

/-- Settles O2: the decoder reads the encoder's word back, and the two fields of a decoded word are the encoder's. -/
theorem eachCommandHasOneWord : Obligations.EachCommandHasOneWord := fun _ i =>
  ⟨eq_encode_of_decode_ok, fun h => h ▸ decode_encode i⟩

/-- Settles O1: each word of the table is its command's encoding. -/
theorem opcodeMapWordsDecode : Obligations.OpcodeMapWordsDecode :=
  ⟨decode_encode .begin, decode_encode .setTempCal, decode_encode .poll, decode_encode .getTempC,
    decode_encode .getTempF, decode_encode .getHum, decode_encode .getPress, decode_encode .getAlt,
    decode_encode .getDewPt, decode_encode .getCal⟩

end Sys2Proof
end

section
/-! What a step does with each kind of host interaction (R272, R274). -/

namespace Sys2Proof.Machine

variable {s : State} {w : Word32} {i : Instr}

theorem issue_of_decode_ok (hf : faultBit s.status = false) (hd : decode w = .ok i) : issue w s = exec i s := by
  simp [issue, hf, hd]

/-- Settles O4: the step issues the word, and the issue of a decoded word with no fault recorded is its command. -/
theorem stepRunsTheDecodedCommand : Obligations.StepRunsTheDecodedCommand := by
  intro s w rest i hw hh hf hd
  have hf' : faultBit (s.setHost rest).status = false := hf
  exact (step_cmdWrite hw hh).trans (issue_of_decode_ok hf' hd)

theorem decode_of_decodeTableWord {nbits n : Nat} (h : decodeTableWord nbits n = some i) :
    decode (BitVec.ofNat 32 (n % 2 ^ nbits)) = .ok i := by
  unfold decodeTableWord at h
  cases hd : decode (BitVec.ofNat 32 (n % 2 ^ nbits)) <;> rw [hd] at h <;> cases h
  rfl

/-- Settles O5: the placed word is the first interaction, and taking it off the list gives the state itself back. -/
theorem placedCommandRunsNext : Obligations.PlacedCommandRunsNext := fun s _ _ i hw hf hd =>
  stepRunsTheDecodedCommand (s.withFetchWord _ _) _ s.host i hw rfl hf (decode_of_decodeTableWord hd)

/-- Settles O8: ARG is the one port whose write stores, and the reply to a read is the port's register. -/
theorem hostReadsAndWritesItsPorts : Obligations.HostReadsAndWritesItsPorts := by
  intro s rest hw
  refine ⟨fun x hh => ?writeArg, fun hh => ?readResult, fun hh => ?readStatus, fun hh => ?readArg⟩
  case writeArg => exact step_write (p := .arg) hw rfl hh
  case readResult => exact step_read (p := .result) hw rfl hh
  case readStatus => exact step_read (p := .status) hw rfl hh
  case readArg => exact step_read (p := .arg) hw rfl hh

/-- Settles O11: the step looks at the host's list alone, and it is empty. -/
theorem idleEngineDoesNothing : Obligations.IdleEngineDoesNothing := by
  intro s hw hh
  simp [step, hostStep, hw, hh]

/-- Settles O12: the reset event is `resetEngine`, which takes its values from `State.reset`. -/
theorem resetRestoresTheRegisters : Obligations.ResetRestoresTheRegisters :=
  ⟨fun _ _ hw hh => step_move hw hh, rfl, rfl, rfl, rfl, rfl, rfl⟩

end Sys2Proof.Machine
end

section
/-! What every command leaves alone, from the one inversion lemma `exec_next` (R247, R249, R218). -/

namespace Sys2Proof.Machine

variable {s t : State} {i : Instr}

/-! ### The fields of the state that a fault leaves -/

section RaiseFault

variable (c : FaultCode) (op : Byte) (s : State)

@[simp] theorem raiseFault_cfg : (raiseFault c op s).cfg = s.cfg := by rw [raiseFault_eq_setStatus]; rfl
@[simp] theorem raiseFault_cal : (raiseFault c op s).cal = s.cal := by rw [raiseFault_eq_setStatus]; rfl
@[simp] theorem raiseFault_snap : (raiseFault c op s).snap = s.snap := by rw [raiseFault_eq_setStatus]; rfl
@[simp] theorem raiseFault_calOffset : (raiseFault c op s).calOffset = s.calOffset := by
  rw [raiseFault_eq_setStatus]; rfl
@[simp] theorem raiseFault_arg : (raiseFault c op s).arg = s.arg := by rw [raiseFault_eq_setStatus]; rfl
@[simp] theorem raiseFault_result : (raiseFault c op s).result = s.result := by rw [raiseFault_eq_setStatus]; rfl
@[simp] theorem raiseFault_busLog : (raiseFault c op s).busLog = s.busLog := by rw [raiseFault_eq_setStatus]; rfl
@[simp] theorem raiseFault_sensor : (raiseFault c op s).sensor = s.sensor := by rw [raiseFault_eq_setStatus]; rfl
@[simp] theorem raiseFault_byteDraws : (raiseFault c op s).byteDraws = s.byteDraws := by
  rw [raiseFault_eq_setStatus]; rfl
@[simp] theorem raiseFault_host : (raiseFault c op s).host = s.host := by rw [raiseFault_eq_setStatus]; rfl
@[simp] theorem raiseFault_replies : (raiseFault c op s).replies = s.replies := by rw [raiseFault_eq_setStatus]; rfl

@[simp] theorem calValid_raiseFault : calValid (raiseFault c op s).status = calValid s.status := by
  obtain ⟨h, -, -, -, -⟩ := raiseFault_keeps c op s; exact h
@[simp] theorem sampleValid_raiseFault : sampleValid (raiseFault c op s).status = sampleValid s.status := by
  obtain ⟨-, h, -, -, -⟩ := raiseFault_keeps c op s; exact h
@[simp] theorem pUnav_raiseFault : pUnav (raiseFault c op s).status = pUnav s.status := by
  obtain ⟨-, -, h, -, -⟩ := raiseFault_keeps c op s; exact h
@[simp] theorem dewUnav_raiseFault : dewUnav (raiseFault c op s).status = dewUnav s.status := by
  obtain ⟨-, -, -, h, -⟩ := raiseFault_keeps c op s; exact h
@[simp] theorem reservedBits_raiseFault : reservedBits (raiseFault c op s).status = reservedBits s.status := by
  obtain ⟨-, -, -, -, h⟩ := raiseFault_keeps c op s; exact h
@[simp] theorem reservedZero_raiseFault : reservedZero (raiseFault c op s).status = reservedZero s.status :=
  reservedZero_congr (reservedBits_raiseFault c op s)

end RaiseFault

/-! ### Frames over all commands -/

/-- Settles O45: no outcome of a command writes ARG, the parameters, the host's list or the replies. -/
theorem commandsLeaveTheHostSide : Obligations.CommandsLeaveTheHostSide := by
  intro i s t h
  obtain ⟨c, rfl⟩ | ⟨-, -, -, -, rfl⟩ | ⟨-, -, -, -, rfl⟩ | ⟨-, rfl⟩ | ⟨-, c, -, -, -, rfl⟩ | ⟨-, m, -, -, rfl⟩ |
    ⟨-, -, v, n, rfl⟩ := exec_next h <;> simp

/-- Settles O46: a fault writes the record alone, and every other outcome is a write of the named registers by its one
command. -/
theorem eachRegisterHasItsWriter : Obligations.EachRegisterHasItsWriter := by
  intro i s t h
  obtain ⟨c, rfl⟩ | ⟨rfl, -, -, -, rfl⟩ | ⟨rfl, -, -, -, rfl⟩ | ⟨rfl, rfl⟩ | ⟨rfl, c, -, -, -, rfl⟩ |
    ⟨rfl, m, -, -, rfl⟩ | ⟨hset, hpoll, v, n, rfl⟩ := exec_next h
  case inl => simp
  case inr.inr.inr.inr.inr.inr => simp [hset, hpoll]
  all_goals simp

/-- A command either takes a fault or leaves the fault record as it is. -/
theorem exec_faults_or_keeps_record (h : exec i s = .next t) :
    (∃ c, t = raiseFault c i.opcode s) ∨ (faultBit t.status = faultBit s.status ∧ ecode t.status = ecode s.status ∧
      faultOp t.status = faultOp s.status) := by
  obtain hfault | ⟨-, -, -, -, rfl⟩ | ⟨-, -, -, -, rfl⟩ | ⟨-, rfl⟩ | ⟨-, c, -, -, -, rfl⟩ | ⟨-, m, -, -, rfl⟩ |
    ⟨-, -, v, n, rfl⟩ := exec_next h
  · exact .inl hfault
  all_goals right; simp

/-- Settles O44: with FAULT clear before and set after, the command took a fault, which writes the record alone. -/
theorem faultsArePrecise : Obligations.FaultsArePrecise := by
  intro i s t hf h ht
  obtain ⟨c, rfl⟩ | ⟨hkeeps, -, -⟩ := exec_faults_or_keeps_record h
  · exact ⟨c.code, raiseFault_records c i.opcode hf, by simp, by simp⟩
  · simp [hkeeps, hf] at ht

end Sys2Proof.Machine
end

section
/-! The invariant of STATUS: every command, every host interaction and so every step keeps it (R26, R31, R37 to R43). -/

namespace Sys2Proof.Machine

variable {s t : State} {i : Instr} {m : HostMove}

/-- Settles O47: the reset state has no register, no history and a clear STATUS. -/
theorem resetMeetsTheInvariants : Obligations.ResetMeetsTheInvariants :=
  ⟨by decide, rfl, fun _ hm => by cases hm⟩

/-- A fault's record is a code 1 to 6, and the bits that speak of registers stay. -/
theorem statusInv_raiseFault (c : FaultCode) (op : Byte) (h : StatusInv s) : StatusInv (raiseFault c op s) := by
  cases hf : faultBit s.status
  · obtain ⟨hres, hcal, hsnap, hneeds, hp, hdew, -, -⟩ := h
    have hcode : ecode (raiseFault c op s).status = c.code := by simp [raiseFault_of_clear hf]
    exact ⟨by simpa, by simpa, by simpa, by simpa, by simpa, by simpa, by simp, fun _ => hcode ▸ c.code_range⟩
  · rwa [raiseFault_of_faulted hf]

/-- BEGIN writes the coefficients and CAL_VALID together (R25). -/
theorem statusInv_loadCalibration (h : StatusInv s) : StatusInv (loadCalibration s) := by
  obtain ⟨hres, -, hsnap, -, hp, hdew, hclear, hcode⟩ := h
  exact ⟨by simpa, by simp, by simpa, by simp, by simpa, by simpa, by simpa, by simpa⟩

/-- POLL writes the snapshot and SAMPLE_VALID together, behind the gate of CAL_VALID (R31, R243). -/
theorem statusInv_sample (c : Calibration) (hv : calValid s.status = true) (h : StatusInv s) :
    StatusInv (sample c s) := by
  obtain ⟨hres, hcal, -, -, -, -, hclear, hcode⟩ := h
  exact ⟨by simpa, by simpa, by simp, fun _ => by simpa, by simp, by simp, by simpa, by simpa⟩

/-- GETDEWPT writes DEW_UNAV behind the gate of SAMPLE_VALID (R41, R245). -/
theorem statusInv_withDewUnav (b : Bool) (hv : sampleValid s.status = true) (h : StatusInv s) :
    StatusInv (s.setStatus (withDewUnav s.status b)) := by
  obtain ⟨hres, hcal, hsnap, hneeds, hp, -, hclear, hcode⟩ := h
  exact ⟨by simpa, by simpa, by simpa, by simpa, by simpa, fun _ => by simpa, by simpa, by simpa⟩

theorem exec_keeps_statusInv (h : StatusInv s) (he : exec i s = .next t) : StatusInv t := by
  obtain ⟨c, rfl⟩ | ⟨-, -, -, -, rfl⟩ | ⟨-, -, -, -, rfl⟩ | ⟨-, rfl⟩ | ⟨-, c, hv, -, -, rfl⟩ | ⟨-, m, hv, -, rfl⟩ |
    ⟨-, -, v, n, rfl⟩ := exec_next he
  · exact statusInv_raiseFault c i.opcode h
  · exact statusInv_loadCalibration h
  · exact h
  · exact h
  · exact statusInv_sample c hv h
  · exact statusInv_withDewUnav (dewOf s m).2 hv h
  · exact h

theorem hostMove_keeps_statusInv (h : StatusInv s) (hm : hostMove m s = .next t) : StatusInv t := by
  obtain ⟨-, rfl⟩ | ⟨r, rfl⟩ | ⟨x, rfl⟩ | rfl | ⟨i, -, he⟩ | ⟨op, -, rfl⟩ := hostMove_next hm
  · exact resetMeetsTheInvariants.1
  · exact h
  · exact h
  · exact h
  · exact exec_keeps_statusInv h he
  · exact statusInv_raiseFault .illegal op h

/-- Settles O48: the step is one host interaction, which keeps the invariant. -/
theorem stepKeepsStatusHonest : Obligations.StepKeepsStatusHonest := by
  intro s t h hstep
  obtain ⟨-, ⟨-, rfl⟩ | ⟨m, rest, -, hm⟩⟩ := step_next hstep
  · exact h
  · exact hostMove_keeps_statusInv (s := s.setHost rest) h hm

/-! ### Progress (R279) -/

/-- Where STATUS agrees with the registers, no command meets an absent register. -/
theorem exec_progress (hw : s.cfg.wf = true) (h : StatusInv s) : ∃ t, exec i s = .next t := by
  obtain ⟨-, hcal, hsnap, -⟩ := h
  cases he : exec i s with
  | next t => exact ⟨t, rfl⟩
  | fault r =>
    obtain ⟨hv, habsent⟩ | ⟨hv, habsent⟩ := exec_fault he
    · simp [hv, habsent] at hcal
    · simp [hv, habsent] at hsnap
  | refused r => simp [exec_refused he] at hw

theorem issue_progress (w : Word32) (hw : s.cfg.wf = true) (h : StatusInv s) : ∃ t, issue w s = .next t := by
  obtain ⟨-, e⟩ | ⟨i, -, -, e⟩ | ⟨_, -, -, e⟩ := issue_cases w s
  · exact ⟨_, e⟩
  · rw [e]; exact exec_progress hw h
  · exact ⟨_, e⟩

theorem issue_not_refused {w : Word32} {r : Refusal} (hw : s.cfg.wf = true) : issue w s ≠ .refused r := by
  obtain ⟨-, e⟩ | ⟨i, -, -, e⟩ | ⟨_, -, -, e⟩ := issue_cases w s <;> rw [e]
  · simp
  · intro hr
    simp [exec_refused hr] at hw
  · simp

theorem hostWrite_progress (p : Port) (x : Word64) (hw : s.cfg.wf = true) (h : StatusInv s) :
    ∃ t, hostWrite p x s = .next t := by
  cases p with
  | cmd => exact issue_progress _ hw h
  | arg | result | status => exact ⟨_, rfl⟩

theorem hostMove_progress (hw : s.cfg.wf = true) (h : StatusInv s) (hm : moveMapped m = true) :
    ∃ t, hostMove m s = .next t := by
  cases m with
  | reset => exact ⟨_, rfl⟩
  | read offset width =>
    obtain ⟨p, hp⟩ := Option.isSome_iff_exists.1 hm
    simp [hostMove, hp]
  | write offset width x =>
    obtain ⟨p, hp⟩ := Option.isSome_iff_exists.1 hm
    simpa [hostMove, hp] using hostWrite_progress p x hw h

/-- No interaction adds to or takes from the host's list, and none changes the parameters (R271). -/
theorem hostMove_frame (hm : hostMove m s = .next t) : t.host = s.host ∧ t.cfg = s.cfg := by
  obtain ⟨-, rfl⟩ | ⟨r, rfl⟩ | ⟨x, rfl⟩ | rfl | ⟨i, -, he⟩ | ⟨op, -, rfl⟩ := hostMove_next hm
  case inr.inr.inr.inr.inl =>
    obtain ⟨-, hcfg, hhost, -⟩ := commandsLeaveTheHostSide i s t he
    exact ⟨hhost, hcfg⟩
  case inr.inr.inr.inr.inr => simp
  all_goals exact ⟨rfl, rfl⟩

/-- Settles O56: a mapped interaction makes progress, and what it answers is a next state of the step. -/
theorem mappedMovesAlwaysStep : Obligations.MappedMovesAlwaysStep := by
  intro s m rest h hw hh hmapped
  obtain ⟨t, hm⟩ := hostMove_progress (s := s.setHost rest) hw h hmapped
  obtain ⟨hhost, hcfg⟩ := hostMove_frame hm
  exact ⟨t, (step_move hw hh).trans hm, hhost, hcfg, hostMove_keeps_statusInv (s := s.setHost rest) h hm⟩

/-! ### The port window (R60, R61) -/

/-- The four whole-register accesses are the mapped ones. -/
theorem exists_port_of_mapped {offset width : Nat} (h : (offset = 0x00 ∧ width = 32) ∨ (offset = 0x08 ∧ width = 64) ∨
    (offset = 0x10 ∧ width = 64) ∨ (offset = 0x18 ∧ width = 32)) : ∃ p, portAt offset width = some p := by
  obtain ⟨rfl, rfl⟩ | ⟨rfl, rfl⟩ | ⟨rfl, rfl⟩ | ⟨rfl, rfl⟩ := h <;> exact ⟨_, rfl⟩

theorem step_unmapped {offset width : Nat} {rest : List HostMove} (hw : s.cfg.wf = true)
    (hp : portAt offset width = none) (hh : s.host = .read offset width :: rest ∨
      ∃ x, s.host = .write offset width x :: rest) : step s = .refused .unmappedPortAccess := by
  obtain hh | ⟨x, hh⟩ := hh <;> simp [step_move hw hh, hostMove, hp]

/-- Settles O9: an unmapped access names no port, a mapped read is answered, and of the mapped writes only CMD's can do
more than store. -/
theorem unmappedAccessesAreRefused : Obligations.UnmappedAccessesAreRefused := by
  intro s rest offset width hw mapped
  refine ⟨fun hun => ?unmapped, fun hmap => ⟨fun hh => ?read, fun x hh => ⟨fun hoff => ?store, fun r => ?notRefused,
    fun h => ?progress⟩⟩⟩
  case unmapped =>
    have hp := portAt_eq_none hun
    exact ⟨fun hh => step_unmapped hw hp (.inl hh), fun x hh => step_unmapped hw hp (.inr ⟨x, hh⟩)⟩
  case read =>
    obtain ⟨p, hp⟩ := exists_port_of_mapped hmap
    exact ⟨_, step_read hw hp hh⟩
  case store =>
    obtain ⟨rfl, -⟩ | ⟨rfl, rfl⟩ | ⟨rfl, rfl⟩ | ⟨rfl, rfl⟩ := hmap
    · exact absurd rfl hoff
    · exact step_write (p := .arg) hw rfl hh
    · exact step_write (p := .result) hw rfl hh
    · exact step_write (p := .status) hw rfl hh
  case notRefused =>
    obtain ⟨p, hp⟩ := exists_port_of_mapped hmap
    rw [step_write hw hp hh]
    cases p with
    | cmd => exact issue_not_refused (s := s.setHost rest) hw
    | arg | result | status => simp [hostWrite]
  case progress =>
    obtain ⟨p, hp⟩ := exists_port_of_mapped hmap
    rw [step_write hw hp hh]
    exact hostWrite_progress (s := s.setHost rest) p x hw h

/-! ### What only reset clears (R38, R39, R42) -/

/-- BEGIN, the one writer of the coefficients, faults where CAL_VALID is set (R244). -/
theorem exec_keeps_calibration (hv : calValid s.status = true) (he : exec i s = .next t) :
    calValid t.status = true ∧ t.cal = s.cal := by
  obtain ⟨c, rfl⟩ | ⟨-, -, hno, -, -⟩ | ⟨-, -, hno, -, -⟩ | ⟨-, rfl⟩ | ⟨-, c, -, -, -, rfl⟩ | ⟨-, m, -, -, rfl⟩ |
    ⟨-, -, v, n, rfl⟩ := exec_next he
  case inr.inl | inr.inr.inl => simp [hv] at hno
  all_goals simpa

/-- POLL, the one writer of SAMPLE_VALID, sets it (R39). -/
theorem exec_keeps_sampleValid (hv : sampleValid s.status = true) (he : exec i s = .next t) :
    sampleValid t.status = true := by
  obtain ⟨c, rfl⟩ | ⟨-, -, -, -, rfl⟩ | ⟨-, -, -, -, rfl⟩ | ⟨-, rfl⟩ | ⟨-, c, -, -, -, rfl⟩ | ⟨-, m, -, -, rfl⟩ |
    ⟨-, -, v, n, rfl⟩ := exec_next he
  case inr.inr.inr.inr.inl => simp
  all_goals simpa

theorem hostMove_keeps_valid_bits (hreset : m ≠ .reset) (hm : hostMove m s = .next t) :
    (calValid s.status = true → calValid t.status = true ∧ t.cal = s.cal) ∧
    (sampleValid s.status = true → sampleValid t.status = true) := by
  obtain ⟨h, -⟩ | ⟨r, rfl⟩ | ⟨x, rfl⟩ | rfl | ⟨i, -, he⟩ | ⟨op, -, rfl⟩ := hostMove_next hm
  case inl => exact absurd h hreset
  case inr.inr.inr.inr.inl =>
    exact ⟨fun hv => exec_keeps_calibration hv he, fun hv => exec_keeps_sampleValid hv he⟩
  all_goals simp

/-- Settles O51: BEGIN faults where CAL_VALID is set, POLL only sets SAMPLE_VALID, and with a fault recorded the whole of
STATUS stays. -/
theorem onlyResetClearsStatus : Obligations.OnlyResetClearsStatus := by
  intro s t hreset hstep
  obtain ⟨-, ⟨-, rfl⟩ | ⟨m, rest, hh, hm⟩⟩ := step_next hstep
  · exact ⟨fun hv => ⟨hv, rfl⟩, id, fun hf => ⟨hf, rfl, rfl⟩⟩
  · have hne : m ≠ .reset := fun h => hreset (by rw [hh, h]; rfl)
    obtain ⟨hcal, hsample⟩ := hostMove_keeps_valid_bits hne hm
    refine ⟨hcal, hsample, fun hf => ?_⟩
    rw [hostMove_keeps_faulted_status (s := s.setHost rest) hf hne hm]
    exact ⟨hf, rfl, rfl⟩

end Sys2Proof.Machine
end

section
/-! The bus history: every command appends allowed bursts alone, and none under an ill-formed configuration (R52, R56, R57). -/

namespace Sys2Proof.Machine

variable {s t : State} {i : Instr} {m : HostMove}

/-- Which transactions are allowed: a read of one of the four blocks with all its bytes. -/
theorem allowedEvent_memRead_iff (c : Config) (a : Byte) (n : Nat) (bytes : List Byte) :
    allowedEvent c (.memRead a n bytes) = true ↔ bytes.length = n ∧
      ((a = c.idReg ∧ n = 1) ∨ (a = c.cal1Addr ∧ n = c.cal1Len) ∨ (a = c.cal2Addr ∧ n = c.cal2Len) ∨
        (a = c.dataAddr ∧ n = c.dataLen)) := by
  simp [allowedEvent, or_assoc]

/-- The transactions of a command: allowed bursts under a well-formed configuration. -/
theorem exec_busLog (h : exec i s = .next t) :
    ∃ events, t.busLog = s.busLog ++ events ∧ ∀ e ∈ events, s.cfg.wf = true ∧ allowedEvent s.cfg e = true := by
  obtain ⟨c, rfl⟩ | ⟨-, hw, -, -, rfl⟩ | ⟨-, hw, -, -, rfl⟩ | ⟨-, rfl⟩ | ⟨-, c, -, -, hw, rfl⟩ | ⟨-, m, -, -, rfl⟩ |
    ⟨-, -, v, n, rfl⟩ := exec_next h
  case inr.inl =>
    exact ⟨_, (loadCalibration_busLog s).trans (by rw [List.append_assoc, List.append_assoc]), by
      simp [allowedEvent_memRead_iff, hw]⟩
  case inr.inr.inl => exact ⟨_, afterIdentity_busLog s, by simp [allowedEvent_memRead_iff, hw]⟩
  case inr.inr.inr.inr.inl => exact ⟨_, sample_busLog s c, by simp [allowedEvent_memRead_iff, hw]⟩
  all_goals exact ⟨[], by simp, by simp⟩

theorem exec_keeps_busInv (h : BusInv s) (he : exec i s = .next t) : BusInv t := by
  obtain ⟨events, hlog, hallowed⟩ := exec_busLog he
  obtain ⟨-, hcfg, -⟩ := commandsLeaveTheHostSide i s t he
  rw [BusInv, hlog, hcfg, List.all_append, h, Bool.true_and, List.all_eq_true]
  exact fun e hmem => (hallowed e hmem).2

theorem hostMove_keeps_busInv (h : BusInv s) (hm : hostMove m s = .next t) : BusInv t := by
  obtain ⟨-, rfl⟩ | ⟨r, rfl⟩ | ⟨x, rfl⟩ | rfl | ⟨i, -, he⟩ | ⟨op, -, rfl⟩ := hostMove_next hm
  case inr.inr.inr.inr.inl => exact exec_keeps_busInv h he
  case inr.inr.inr.inr.inr => simpa [BusInv] using h
  all_goals exact h

/-- Settles O49: a step appends a command's transactions or none. -/
theorem stepKeepsTheBusReadOnly : Obligations.StepKeepsTheBusReadOnly := by
  intro s t h hstep
  obtain ⟨-, ⟨-, rfl⟩ | ⟨m, rest, -, hm⟩⟩ := step_next hstep
  · exact h
  · exact hostMove_keeps_busInv (s := s.setHost rest) h hm

/-! ### The register space (R52) -/

/-- A well-formed configuration has its four blocks inside the register space. -/
theorem bursts_of_wf {c : Config} (h : c.wf = true) :
    c.idReg.toNat + 1 ≤ 256 ∧ c.cal1Addr.toNat + c.cal1Len ≤ 256 ∧ c.cal2Addr.toNat + c.cal2Len ≤ 256 ∧
      c.dataAddr.toNat + c.dataLen ≤ 256 := by
  simp only [Config.wf, burstInRange, Bool.and_eq_true, decide_eq_true_eq] at h
  obtain ⟨⟨⟨⟨hid, h1⟩, h2⟩, hdata⟩, -⟩ := h
  exact ⟨hid, h1, h2, hdata⟩

theorem allowedEvent_inRange {c : Config} {e : BusEvent} (hw : c.wf = true) (h : allowedEvent c e = true) :
    ∃ a n bytes, e = .memRead a n bytes ∧ a.toNat + n ≤ 256 := by
  cases e with
  | memWrite a v => cases h
  | memRead a n bytes =>
    obtain ⟨hid, h1, h2, hdata⟩ := bursts_of_wf hw
    refine ⟨a, n, bytes, rfl, ?_⟩
    obtain ⟨-, ⟨rfl, rfl⟩ | ⟨rfl, rfl⟩ | ⟨rfl, rfl⟩ | ⟨rfl, rfl⟩⟩ := (allowedEvent_memRead_iff _ _ _ _).1 h
    · exact hid
    · exact h1
    · exact h2
    · exact hdata

theorem step_of_not_wf (h : ¬s.cfg.wf = true) : step s = .refused .illFormedConfig := by
  simp [step, hostStep, h]

/-- Settles O10: a block past the end makes the configuration ill-formed, and under a well-formed one the allowed bursts
stay inside the space. -/
theorem burstsStayInTheRegisterSpace : Obligations.BurstsStayInTheRegisterSpace := by
  refine ⟨fun s hpast => step_of_not_wf fun hw => ?_, by decide, fun s t i h => ?_⟩
  · obtain ⟨-, h1, h2, hdata⟩ := bursts_of_wf hw
    omega
  · obtain ⟨events, hlog, hallowed⟩ := exec_busLog h
    refine ⟨events, hlog, fun e he => ?_⟩
    obtain ⟨hw, ha⟩ := hallowed e he
    exact allowedEvent_inRange hw ha

end Sys2Proof.Machine
end

section
/-! BEGIN on a matching identity (R110) and the packed pair of coefficients (R104). -/

namespace Sys2Proof.Machine

/-- Settles O13: the loaded state's history holds the bytes that the coefficients are decoded from, and its STATUS is the
old one with CAL_VALID set. -/
theorem beginLoadsTheStore : Obligations.BeginLoadsTheStore := by
  intro s hv hw hi
  refine ⟨loadCalibration s, calBytes1 s, calBytes2 s, execBegin_of_match hv hw hi, by simp, by simp, ?history, rfl, rfl,
    by simp, by simp, by simp, by simp, by simp, by simp, by simp, by simp, rfl⟩
  case history => rw [loadCalibration_busLog, busBytes_one, hi]; simp

/-- The bits of a byte above a nibble. -/
theorem getLsbD_byte_append_nibble (hi : Byte) (lo : BitVec 4) :
    (∀ i < 4, (hi ++ lo : BitVec 12).getLsbD i = lo.getLsbD i) ∧
    (∀ i, (hi ++ lo : BitVec 12).getLsbD (4 + i) = hi.getLsbD i) := by
  refine ⟨fun i h => ?_, fun i => ?_⟩
  · rw [BitVec.getLsbD_append, if_pos h]
  · rw [BitVec.getLsbD_append, if_neg (by omega), Nat.add_sub_cancel_left]

theorem getLsbD_nibble (b : Byte) (lo : Nat) {i : Nat} (h : i < 4) :
    (b.extractLsb' lo 4).getLsbD i = b.getLsbD (lo + i) := by
  rw [BitVec.getLsbD_extractLsb', decide_eq_true h, Bool.true_and]

theorem toInt_twelve_range (x : BitVec 12) : -2048 ≤ x.toInt ∧ x.toInt ≤ 2047 := by
  have hlow := x.le_toInt
  have hhigh := x.toInt_lt
  omega

/-- Settles O17: each of the pair is a byte above a nibble of the shared byte, so its bits and its value are theirs. -/
theorem packedPairSharesANibble : Obligations.PackedPairSharesANibble := by
  intro b1 b2 c
  obtain ⟨h4low, h4high⟩ := getLsbD_byte_append_nibble (byteAt b2 3) ((byteAt b2 4).extractLsb' 0 4)
  obtain ⟨h5low, h5high⟩ := getLsbD_byte_append_nibble (byteAt b2 5) ((byteAt b2 4).extractLsb' 4 4)
  obtain ⟨h4min, h4max⟩ := toInt_twelve_range c.digH4
  obtain ⟨h5min, h5max⟩ := toInt_twelve_range c.digH5
  refine ⟨fun i hi => ⟨?_, ?_⟩, fun i _ => ⟨h4high i, h5high i⟩, ?_, ?_, h4min, h4max, h5min, h5max⟩
  · exact (h4low i hi).trans ((getLsbD_nibble _ 0 hi).trans (by rw [Nat.zero_add]))
  · exact (h5low i hi).trans (getLsbD_nibble _ 4 hi)
  · rw [BitVec.toInt_signExtend_of_le (by decide)]; exact decodeCal_digH4_toInt b1 b2
  · rw [BitVec.toInt_signExtend_of_le (by decide)]; exact decodeCal_digH5_toInt b1 b2

end Sys2Proof.Machine
end

section
/-! POLL past its gate (R215), and the accessors with a formula: GETTEMPF (R221), GETALT (R224), GETDEWPT (R225). -/

namespace Sys2Proof.Machine

variable {s : State} {c : Calibration}

/-! ### POLL -/

theorem execPoll_of_calibrated (hv : calValid s.status = true) (hc : s.cal = some c) (hw : s.cfg.wf = true) :
    execPoll s = .next (sample c s) := by
  rw [execPoll, withCalibration_open hv hc, withBus_wf hw]

section Compensate

variable (nan : Nat → F64) (d : List Byte) (c : Calibration) (offset : F64)

theorem compensate_tFine : (compensate nan d c offset).tFine = tcomp (adcT d) c := by simp only [compensate]

theorem compensate_tempC : (compensate nan d c offset).tempC =
    fadd (nan 1) (fdiv (nan 0) (i2f (tcomp (adcT d) c).toInt) (f64 5120)) offset := by
  simp only [compensate, tempWithOffset, celsius]

theorem compensate_pressPa : (compensate nan d c offset).pressPa =
    pascals (nan 2) (pcomp (adcP d) (tcomp (adcT d) c) c).1 := by
  simp only [compensate]

theorem compensate_hum : (compensate nan d c offset).hum =
    hcomp (fun k => nan (3 + k)) (adcH d) (tcomp (adcT d) c) c := by
  simp only [compensate]

end Compensate

/-- Settles O30: the gate records its fault, and past it the sampled state is computed from the burst it records. -/
theorem pollRefreshesTheSnapshot : Obligations.PollRefreshesTheSnapshot := by
  intro s
  refine ⟨fun hv hf => ⟨_, withCalibration_shut hv _, raiseFault_records .noCal Instr.poll.opcode hf⟩,
    fun c hv hc hw => ?sampled⟩
  case sampled =>
    refine ⟨sample c s, compensate s.nans (rawBytes s) c s.calOffset, rawBytes s, execPoll_of_calibrated hv hc hw,
      sample_snap s c, rawBytes_length s, sample_busLog s c, compensate_tFine _ _ _ _, ?_⟩
    rw [compensate_tFine, compensate_tempC, compensate_pressPa, compensate_hum, pascals]
    exact ⟨rfl, rfl, rfl, by simp [pressureUnavailable], by simp, by simp, by simp, by simp, by simp, by simp, by simp,
      rfl⟩

/-- Settles O31: past the gate the next state is the sampled one, which takes nothing from the old snapshot. -/
theorem pollIgnoresTheOldSnapshot : Obligations.PollIgnoresTheOldSnapshot := by
  intro s t old hv h
  obtain ⟨hno, -⟩ | ⟨c, -, hc, hw, rfl⟩ := execPoll_next h
  · simp [hv] at hno
  · exact execPoll_of_calibrated (s := { s with snap := old }) hv hc hw

/-- Settles O32: a sensor that has just these bytes determined answers with them. -/
theorem anySensorAnswerIsPossible : Obligations.AnySensorAnswerIsPossible := by
  intro s c bytes hv hc hw hlen
  have hraw : rawBytes { s with sensor := bytes } = bytes := by
    have h := oracleBytes_append bytes [] s.byteDraws
    rwa [List.append_nil, hlen] at h
  exact ⟨bytes, _, execPoll_of_calibrated (s := { s with sensor := bytes }) hv hc hw, by rw [sample_busLog, hraw]⟩

/-! ### The accessors -/

/-- Settles O36: the gate records its fault or passes the snapshot to the formula. -/
theorem getTempFConvertsTheSnapshot : Obligations.GetTempFConvertsTheSnapshot := fun _ =>
  ⟨withSnapshot_records_noSample .getTempF _, fun _ hv hm => withSnapshot_open hv hm _⟩

/-- Past its gate and its operand check GETALT answers the altitude. -/
theorem execGetAlt_of_nonzero {m : Snapshot} (hv : sampleValid s.status = true) (hm : s.snap = some m)
    (hz : isZero s.arg = false) :
    execGetAlt s = .next ((s.setResult (alt Config.POW s.nans m.pressPa s.arg)).drawNaNs altOps) := by
  have hp0 : feq s.arg (f64 0) = false := (feq_zero s.arg).trans hz
  simp [execGetAlt, withSnapshot_open hv hm, hp0, floatOperand, fromBits64, bits64]

theorem isZero_eq_false_iff (x : F64) : isZero x = false ↔ ¬(x = 0#64 ∨ x = 0x8000000000000000#64) := by
  rw [← isZero_iff, Bool.not_eq_true]

/-- Settles O37: the gate, then the zero operand, then the formula. -/
theorem getAltComputesTheAltitude : Obligations.GetAltComputesTheAltitude := by
  intro s
  refine ⟨withSnapshot_records_noSample .getAlt _, fun m hv hm hf hz => ?zero, fun m hv hm h0 h1 => ?altitude⟩
  case zero => exact ⟨_, execGetAlt_of_zero hv hm hz, raiseFault_records .altP0Zero Instr.getAlt.opcode hf⟩
  case altitude =>
    refine (execGetAlt_of_nonzero hv hm ((isZero_eq_false_iff _).2 (not_or.2 ⟨h0, h1⟩))).trans ?_
    simp only [alt, altExponent, altOps, State.setResult, State.drawNaNs]

/-! ### The dew point's two cases (R196) -/

theorem dew_of_isZero (ln : F64 → F64) (sentinel : F64) (nan : Nat → F64) (t : F64) {rh : F64} (h : isZero rh = true) :
    dew ln sentinel nan t rh = (sentinel, true) := by
  rw [dew, feq_zero, h, if_pos rfl]

theorem dew_of_nonzero (ln : F64 → F64) (sentinel : F64) (nan : Nat → F64) (t : F64) {rh : F64}
    (h : isZero rh = false) : dew ln sentinel nan t rh = (dewValue nan (dewGamma ln nan t rh), false) := by
  rw [dew, feq_zero, h, if_neg (by decide)]

/-- Settles O38: the gate records its fault or passes the snapshot on; RESULT and DEW_UNAV are the pair of DEW's case. -/
theorem getDewPtComputesTheDewPoint : Obligations.GetDewPtComputesTheDewPoint := by
  intro s
  refine ⟨withSnapshot_records_noSample .getDewPt _, fun m hv hm => ?dewPoint⟩
  case dewPoint =>
    intro zero g
    refine ⟨_, withSnapshot_open hv hm _, fun hz => ?sentinel, fun hz => ?formula, by simp, by simp, by simp, by simp,
      by simp, by simp, by simp, rfl⟩
    case sentinel => simp [dewOf, dew_of_isZero _ _ _ _ ((isZero_iff m.hum).2 hz), bits64]
    case formula =>
      rw [dewOf, dew_of_nonzero _ _ _ _ ((isZero_eq_false_iff m.hum).2 hz)]
      exact ⟨by simp only [State.drawNaNs_result, State.setStatus_result, State.setResult_result, bits64, dewValue,
        dewGamma, magnusB, magnusC, g], by simp⟩

end Sys2Proof.Machine
end

section
/-! TCOMP with the reference coefficients (R132), the pressure's "unavailable" (R153) and its conversion to Pa (R156). -/

namespace Sys2Proof.Machine

/-! ### TCOMP without overflow -/

theorem bmod32_eq_self {x : Int} (h : -(2 ^ 31) ≤ x ∧ x < 2 ^ 31) : x.bmod (2 ^ 32) = x :=
  Int.bmod_eq_of_le (by omega) (by omega)

/-- Settles O21: every intermediate value of the wrapped formula lies in the signed 32-bit range, so no wrap acts. -/
theorem referenceTemperatureNeverOverflows : Obligations.ReferenceTemperatureNeverOverflows := by
  intro adc c h1 h2 h3 a d
  have hadc : 0 ≤ a ∧ a < 1048576 := ⟨Int.natCast_nonneg _, Int.ofNat_lt.2 adc.isLt⟩
  have hd : -27504 ≤ d ∧ d ≤ 38031 := by omega
  have hsq : 0 ≤ d * d ∧ d * d ≤ 38031 * 38031 := ⟨mul_self_nonneg d, by nlinarith⟩
  have ht1 : ((27504#16).toNat : Int) = 27504 := rfl
  have ht2 : (26435#16).toInt = 26435 := by decide
  have ht3 : (0xFC18#16).toInt = -1000 := by decide
  have hlinear : (tcompLinear adc c.digT1 c.digT2).toInt = (a / 8 - 55008) * 26435 / 2048 := by
    rw [h1, h2, tcompLinear_toInt, ht1, ht2, bmod32_eq_self (x := 27504 * 2) (by omega),
      bmod32_eq_self (x := a / 8 - 27504 * 2) (by omega), bmod32_eq_self (by omega)]
    rfl
  have hquadratic : (tcompQuadratic adc c.digT1 c.digT3).toInt = d * d / 4096 * (-1000) / 16384 := by
    rw [tcompQuadratic_toInt adc c.digT1 c.digT3 d (by rw [h1, ht1, bmod32_eq_self]; omega), h3, ht3,
      bmod32_eq_self (x := d * d) (by omega), bmod32_eq_self (by omega)]
  rw [tcomp, BitVec.toInt_add, hlinear, hquadratic, bmod32_eq_self (by omega)]

/-! ### The conversion to Pascals is exact -/

/-- An integer below 2^53 is a binary64 at every scale of the grid that does not overflow. -/
theorem exists_mag_mul_two_pow {a k : Nat} (ha : a < 2 ^ 53) (hk : k ≤ 1074) :
    ∃ m, m < infMag ∧ gridMag m = a * 2 ^ k := by
  rcases Nat.eq_zero_or_pos a with rfl | hpos
  · exact ⟨0, by decide, by rw [gridMag_zero, Nat.zero_mul]⟩
  · -- shift the integer up to a full significand, or as far as the scale goes
    have hlog : a.log2 < 53 := (Nat.log2_lt (by omega)).2 ha
    have hlo : 2 ^ a.log2 ≤ a := Nat.log2_self_le (by omega)
    have hhi : a < 2 ^ (a.log2 + 1) := Nat.lt_log2_self
    obtain ⟨d, hd⟩ : ∃ d, d = min k (52 - a.log2) := ⟨_, rfl⟩
    have hr : a * 2 ^ d < 2 ^ 53 := calc
      a * 2 ^ d < 2 ^ (a.log2 + 1) * 2 ^ d := Nat.mul_lt_mul_of_pos_right hhi (by positivity)
      _ = 2 ^ (a.log2 + 1 + d) := (Nat.pow_add ..).symm
      _ ≤ 2 ^ 53 := Nat.pow_le_pow_right (by omega) (by omega)
    have hfull : k - d = 0 ∨ 2 ^ 52 ≤ a * 2 ^ d := by
      rcases Nat.lt_or_ge (52 - a.log2) k with h | h
      · right
        calc 2 ^ 52 = 2 ^ a.log2 * 2 ^ d := by rw [← Nat.pow_add]; congr 1; omega
          _ ≤ a * 2 ^ d := Nat.mul_le_mul_right _ hlo
      · left; omega
    refine ⟨(k - d) * 2 ^ 52 + a * 2 ^ d, by simp only [infMag]; omega, ?_⟩
    rw [gridMag_step _ _ hr.le hfull, Nat.mul_assoc, ← Nat.pow_add]
    congr 2; omega

/-- A multiple of 1/256 below 2^45 is a binary64. -/
theorem exists_mag_over_256 {n : Nat} (h : n < 2 ^ 53) : ∃ m, m < infMag ∧ gridMag m * 256 = n * gridOne := by
  have he := gridExp_eq
  obtain ⟨m, hm, hg⟩ := exists_mag_mul_two_pow (k := gridExp - 8) h (by omega)
  refine ⟨m, hm, ?_⟩
  rw [hg, gridOne, show 256 = 2 ^ 8 by rfl, Nat.mul_assoc, ← Nat.pow_add, Nat.sub_add_cancel (by omega)]

theorem isZero_i2f_eq_false {n : Int} (h : n.natAbs < 2 ^ 53) (hn : n ≠ 0) : isZero (i2f n) = false := by
  rw [← Bool.not_eq_true, isZero_iff_fGrid, fGrid_i2f h]
  exact mul_ne_zero hn (by exact_mod_cast gridOne_pos.ne')

/-- The Pa value is the Q24.8 word over 256, without rounding. -/
theorem pascals_eq (nan : F64) (pq : Word32) :
    ∃ m, m < infMag ∧ gridMag m * 256 = pq.toNat * gridOne ∧ pascals nan pq = mkF64 false m := by
  have hpq : (pq.toNat : Int).natAbs < 2 ^ 53 := by have := pq.isLt; omega
  have h256 : (256 : Int).natAbs < 2 ^ 53 := by decide
  obtain ⟨m, hm, hg⟩ := exists_mag_over_256 hpq
  refine ⟨m, hm, hg, ?_⟩
  have hquotient : (pq.toNat : Int).natAbs * gridOne * gridOne = gridMag m * (256 * gridOne) := by
    rw [← hg]; ring
  have hdiv := fdiv_finite nan (isFinite_i2f hpq) (isFinite_i2f h256) (isZero_i2f_eq_false h256 (by decide))
  rw [gridMag_i2f hpq, gridMag_i2f h256, fNeg_i2f, fNeg_i2f, decide_eq_false (by omega),
    show (256 : Int).natAbs = 256 by rfl, hquotient, roundMag_exact hm.le (Nat.mul_pos (by decide) gridOne_pos)] at hdiv
  exact hdiv

theorem pascals_zero (nan : F64) : pascals nan 0 = 0#64 := by
  obtain ⟨m, -, hg, h⟩ := pascals_eq nan 0
  have hm : ¬0 < m := fun hpos => by
    have := gridMag_pos hpos
    simp at hg
    omega
  obtain rfl : m = 0 := by omega
  rw [h]; rfl

/-- Every Pa value is a pressure in the sense of the snapshot's invariant (R156). -/
theorem isPressure_pascals (nan : F64) (pq : Word32) : isPressure (pascals nan pq) = true := by
  obtain ⟨m, hm, hg, h⟩ := pascals_eq nan pq
  have hmag : fMag (mkF64 false m) = m := fMag_mkF64 _ _ (hm.trans infMag_lt)
  have hlt : pq.toNat * gridOne < 2 ^ 32 * gridOne := Nat.mul_lt_mul_of_pos_right pq.isLt gridOne_pos
  simp only [h, isPressure, fNeg_mkF64 _ _ (hm.trans infMag_lt), isFinite_mkF64 _ hm, hmag, hg, Nat.mul_mod_left,
    decide_eq_true hlt]
  rfl

theorem fKey_mkF64_false {m : Nat} (h : m < 2 ^ 63) : fKey (mkF64 false m) = m := by
  simp [fKey, fNeg_mkF64 _ _ h, fMag_mkF64 _ _ h]

/-- The largest Q24.8 word over 256, written as a decimal fraction. -/
theorem exists_mag_of_largest_pressure :
    ∃ m, m < infMag ∧ gridMag m * 256 = (2 ^ 32 - 1) * gridOne ∧
      f64 1677721599609375 100000000 = mkF64 false m := by
  obtain ⟨m, hm, hg⟩ := exists_mag_over_256 (n := 2 ^ 32 - 1) (by decide)
  have hnum : (1677721599609375 : Int).natAbs * gridOne = gridMag m * 100000000 := by
    rw [show (1677721599609375 : Int).natAbs = 1677721599609375 by rfl]; omega
  refine ⟨m, hm, hg, ?_⟩
  rw [f64, hnum, roundMag_exact hm.le (by decide)]
  rfl

/-- An unavailable pressure is the word 0. -/
theorem pcomp_word_of_unavailable {adc : BitVec 20} {tf : Word32} {c : Calibration} (h : (pcomp adc tf c).2 = true) :
    (pcomp adc tf c).1 = 0 := by
  by_cases hden : pcompDenominator (pcompOffset tf) c = 0
  · rw [pcomp_of_denominator_eq_zero adc hden]
  · simp [pcomp_of_denominator_ne_zero adc hden] at h

/-- Settles O25: the word over 256 is on the grid, so nothing is rounded, and the largest word bounds them all. -/
theorem pascalConversionIsExact : Obligations.PascalConversionIsExact := by
  intro nan pq
  obtain ⟨m, hm, hg, h⟩ := pascals_eq nan pq
  obtain ⟨largest, hlargest, hglargest, hf64⟩ := exists_mag_of_largest_pressure
  rw [h]
  refine ⟨isFinite_mkF64 _ hm, fNeg_mkF64 _ _ (hm.trans infMag_lt), ?exact, ?bound, fun adc tf c hun => ?unavailable⟩
  case exact =>
    rw [fGrid_mkF64 _ hm.le, if_neg (by decide)]
    exact_mod_cast hg
  case bound =>
    rw [hf64, fKey_mkF64_false (hm.trans infMag_lt), fKey_mkF64_false (hlargest.trans infMag_lt), Int.ofNat_le,
      ← gridMag_strictMono.le_iff_le]
    have hle : pq.toNat * gridOne ≤ (2 ^ 32 - 1) * gridOne := Nat.mul_le_mul_right _ (by have := pq.isLt; omega)
    omega
  case unavailable => rw [pcomp_word_of_unavailable hun, pascals_zero]

/-! ### The denominator of PCOMP -/

/-- Settles O24: the denominator is the product shifted right by 33, which is 0 exactly on [0, 2^33). -/
theorem zeroDenominatorMeansUnavailable : Obligations.ZeroDenominatorMeansUnavailable := by
  intro adc tf c nan v1 product
  have hden : (pcompDenominator v1 c).toInt = product.toInt / 2 ^ 33 := toInt_sshiftRight_eq_div product 33
  have hzero : pcompDenominator v1 c = 0 ↔ (pcompDenominator v1 c).toInt = 0 := by
    rw [← BitVec.toInt_inj]; rfl
  refine ⟨?range, fun hp1 => ?noP1, pcomp_of_denominator_eq_zero adc, fun h => ?available, ?zeroPa⟩
  case range => rw [hzero, hden]; omega
  case noP1 =>
    have hproduct : product = 0 := by simp [product, hp1]
    rw [hzero, hden, hproduct]; rfl
  case available => rw [pcomp_of_denominator_ne_zero adc h]
  case zeroPa => exact pascals_zero nan

end Sys2Proof.Machine
end

section
/-! CLAMP (R172), the bounds that keep HCOMP finite (R173), and the snapshot's ranges as an invariant of the step. -/

namespace Sys2Proof.Machine

/-! ### CLAMP -/

theorem clamp_of_above {v : F64} (h : fgt v (f64 100) = true) : clamp v = f64 100 := by
  rw [clamp, if_pos h]

theorem clamp_of_below {v : F64} (h : fgt v (f64 100) = false) (h0 : flt v (f64 0) = true) : clamp v = f64 0 := by
  rw [clamp, h, if_neg (by decide), if_pos h0]

theorem clamp_of_within {v : F64} (h : fgt v (f64 100) = false) (h0 : flt v (f64 0) = false) : clamp v = v := by
  rw [clamp, h, h0, if_neg (by decide), if_neg (by decide)]

/-- Between two numbers the order is that of their keys. -/
theorem flt_eq_false_iff {a b : F64} (ha : isNaN a = false) (hb : isNaN b = false) :
    flt a b = false ↔ fKey b ≤ fKey a := by
  simp [flt, ha, hb]

theorem isNaN_f64_100 : isNaN (f64 100) = false := isNaN_eq_false_of_finite (isFinite_i2f (by decide))

theorem isNaN_f64_zero : isNaN (f64 0) = false := isNaN_eq_false_of_finite (isFinite_i2f (by decide))

theorem fKey_f64_zero : fKey (f64 0) = 0 := by decide +kernel

theorem inPercentRange_f64_100 : inPercentRange (f64 100) = true := by decide +kernel

theorem inPercentRange_f64_zero : inPercentRange (f64 0) = true := by decide +kernel

theorem inPercentRange_clamp {v : F64} (hv : isNaN v = false) : inPercentRange (clamp v) = true := by
  cases habove : fgt v (f64 100)
  · cases hbelow : flt v (f64 0)
    · have hhigh := (flt_eq_false_iff isNaN_f64_100 hv).1 habove
      have hlow := (flt_eq_false_iff hv isNaN_f64_zero).1 hbelow
      rw [fKey_f64_zero] at hlow
      rw [clamp_of_within habove hbelow]
      simp [inPercentRange, hv, hlow, hhigh]
    · rw [clamp_of_below habove hbelow]; exact inPercentRange_f64_zero
  · rw [clamp_of_above habove]; exact inPercentRange_f64_100

/-- Settles O27: the three cases are CLAMP's branches, and a number that is neither above 100 nor below 0 is between. -/
theorem clampKeepsThePercentRange : Obligations.ClampKeepsThePercentRange := fun _ =>
  ⟨clamp_of_above, clamp_of_below, clamp_of_within, inPercentRange_clamp⟩

/-! ### HCOMP stays far below the overflow -/

/-- Division by a nonzero integer does not grow. -/
theorem fBound_fdiv_int {k : Nat} (nan : F64) {a : F64} {n : Int} (ha : fBound k a) (hk : k ≤ 1023)
    (h : n.natAbs < 2 ^ 53) (hn : n ≠ 0) : fBound k (fdiv nan a (f64 n)) :=
  fBound_fdiv nan ha hk (isFinite_i2f h)
    ((Nat.le_mul_of_pos_left _ (Int.natAbs_pos.2 hn)).trans (gridMag_i2f h).ge)

theorem fBound_f64 {k : Nat} {n : Int} (h : n.natAbs ≤ 2 ^ k) : fBound k (f64 n) := fBound_i2f h

theorem fBound_i2f_toNat {n : Nat} (x : BitVec n) : fBound n (i2f x.toNat) := fBound_i2f x.isLt.le

theorem fBound_i2f_toInt {n : Nat} (x : BitVec n) : fBound n (i2f x.toInt) := by
  have hlow := x.le_two_mul_toInt
  have hhigh := x.two_mul_toInt_lt
  refine fBound_i2f ?_
  zify
  rw [abs_le]
  constructor <;> omega

section Bounds

variable (nan : Nat → F64) (adc : Word16) (tf : Word32) (c : Calibration) {v x o f r : F64}

theorem fBound_hcompTemp : fBound 33 (hcompTemp nan tf) :=
  fBound_fsub (nan 0) (fBound_i2f_toInt tf) (fBound_f64 (by decide)) (by decide)

/-- `1.0` plus a bounded value. -/
theorem fBound_one_fadd {k : Nat} (n : F64) (hx : fBound k x) (hk : k ≤ 1022) : fBound (k + 1) (fadd n (f64 1) x) :=
  fBound_fadd n ((fBound_f64 (k := 0) (by decide)).mono (Nat.zero_le k)) hx hk

theorem fBound_hcompX3 (hv : fBound 33 v) : fBound 42 (hcompX3 nan v (i2f c.digH3.toNat)) := by
  have hratio := fBound_fdiv_int (n := 67108864) (nan 1) (fBound_i2f_toNat c.digH3) (by decide) (by decide) (by decide)
  have hproduct := fBound_fmul (nan 2) hratio hv (by decide)
  exact (fBound_one_fadd (nan 3) hproduct (by decide)).mono (by decide)

theorem fBound_hcompX6 (hv : fBound 33 v) (hx : fBound 42 x) : fBound 84 (hcompX6 nan v x (i2f c.digH6.toInt)) := by
  have hratio := fBound_fdiv_int (n := 67108864) (nan 4) (fBound_i2f_toInt c.digH6) (by decide) (by decide) (by decide)
  have hlinear := fBound_fmul (nan 5) hratio hv (by decide)
  have hquadratic := fBound_fmul (nan 6) hlinear hx (by decide)
  exact (fBound_one_fadd (nan 7) hquadratic (by decide)).mono (by decide)

theorem fBound_hcompF (hx : fBound 84 x) : fBound 100 (hcompF nan x (i2f c.digH2.toInt)) := by
  have hratio := fBound_fdiv_int (n := 65536) (nan 8) (fBound_i2f_toInt c.digH2) (by decide) (by decide) (by decide)
  exact (fBound_fmul (nan 9) hratio hx (by decide)).mono (by decide)

theorem fBound_hcompO (hv : fBound 33 v) : fBound 46 (hcompO nan v (i2f c.digH4.toInt) (i2f c.digH5.toInt)) := by
  have hconstant := fBound_fmul (nan 10) (fBound_i2f_toInt c.digH4) (fBound_f64 (k := 6) (n := 64) (by decide))
    (by decide)
  have hratio := fBound_fdiv_int (n := 16384) (nan 11) (fBound_i2f_toInt c.digH5) (by decide) (by decide) (by decide)
  have hlinear := fBound_fmul (nan 12) hratio hv (by decide)
  exact (fBound_fadd (nan 13) (hconstant.mono (by decide)) hlinear (by decide)).mono (by decide)

theorem fBound_hcompRaw (ho : fBound 46 o) (hf : fBound 100 f) : fBound 147 (hcompRaw nan adc o f) := by
  have hdifference := fBound_fsub (nan 14) ((fBound_i2f_toNat adc).mono (by decide)) ho (by decide)
  exact (fBound_fmul (nan 15) hdifference hf (by decide)).mono (by decide)

theorem fBound_hcompCorrect (hr : fBound 147 r) : fBound 303 (hcompCorrect nan r (i2f c.digH1.toNat)) := by
  have hproduct := fBound_fmul (nan 16) (fBound_i2f_toNat c.digH1) hr (by decide)
  have hratio := fBound_fdiv_int (n := 524288) (nan 17) hproduct (by decide) (by decide) (by decide)
  have hfactor := fBound_one_fadd (nan 18) (fBound_fNegate hratio) (by decide)
  exact (fBound_fmul (nan 19) hr hfactor (by decide)).mono (by decide)

theorem isFinite_hcompUnclamped : isFinite (hcompUnclamped nan adc tf c) = true :=
  have hv := fBound_hcompTemp nan tf
  have hx6 := fBound_hcompX6 nan c hv (fBound_hcompX3 nan c hv)
  (fBound_hcompCorrect nan c (fBound_hcompRaw nan adc (fBound_hcompO nan c hv) (fBound_hcompF nan c hx6))).finite
    (by decide)

theorem inPercentRange_hcomp : inPercentRange (hcomp nan adc tf c) = true :=
  inPercentRange_clamp (isNaN_eq_false_of_finite (isFinite_hcompUnclamped nan adc tf c))

end Bounds

/-- Settles O28: every step of HCOMP is bounded by a power of two that the ranges of its inputs give, so none overflows
and CLAMP meets a number. -/
theorem humidityIsAlwaysAPercentage : Obligations.HumidityIsAlwaysAPercentage := fun nan adc tf c =>
  ⟨isFinite_hcompUnclamped nan adc tf c, inPercentRange_hcomp nan adc tf c⟩

/-! ### The invariant of the snapshot -/

variable {s t : State} {i : Instr} {m : HostMove}

/-- The invariant speaks of the snapshot and P_UNAV alone. -/
theorem snapshotInv_congr (h : SnapshotInv s) (hsnap : t.snap = s.snap) (hp : pUnav t.status = pUnav s.status) :
    SnapshotInv t := by
  rwa [SnapshotInv, hsnap, hp]

/-- What POLL stores is in range (R156, R173), and an unavailable pressure is the sentinel (R40). -/
theorem snapshotInv_sample (c : Calibration) : SnapshotInv (sample c s) := by
  intro m hm
  obtain rfl : compensate s.nans (rawBytes s) c s.calOffset = m := Option.some.inj hm
  rw [compensate_hum, compensate_pressPa]
  refine ⟨inPercentRange_hcomp _ _ _ _, isPressure_pascals _ _, fun hp => ?_⟩
  have hun : pressureUnavailable (rawBytes s) c = true := by simpa using hp
  rw [pcomp_word_of_unavailable hun]
  exact pascals_zero _

theorem exec_keeps_snapshotInv (h : SnapshotInv s) (he : exec i s = .next t) : SnapshotInv t := by
  by_cases hi : i = .poll
  · subst hi
    obtain ⟨-, rfl⟩ | ⟨c, -, -, -, rfl⟩ := execPoll_next he
    · exact snapshotInv_congr h (by simp) (by simp)
    · exact snapshotInv_sample c
  · obtain ⟨-, hsnap, -, -, -, -, hbits, -⟩ := eachRegisterHasItsWriter i s t he
    exact snapshotInv_congr h (hsnap hi) (hbits hi).2

theorem hostMove_keeps_snapshotInv (h : SnapshotInv s) (hm : hostMove m s = .next t) : SnapshotInv t := by
  obtain ⟨-, rfl⟩ | ⟨r, rfl⟩ | ⟨x, rfl⟩ | rfl | ⟨i, -, he⟩ | ⟨op, -, rfl⟩ := hostMove_next hm
  case inl => exact fun _ hm => by cases hm
  case inr.inr.inr.inr.inl => exact exec_keeps_snapshotInv h he
  case inr.inr.inr.inr.inr => exact snapshotInv_congr h (by simp) (by simp)
  all_goals exact h

/-- Settles O50: reset leaves no snapshot, POLL stores one in range, and nothing else writes it. -/
theorem stepKeepsTheSnapshotInRange : Obligations.StepKeepsTheSnapshotInRange := by
  intro s t h hstep
  obtain ⟨-, ⟨-, rfl⟩ | ⟨m, rest, -, hm⟩⟩ := step_next hstep
  · exact h
  · exact hostMove_keeps_snapshotInv (s := s.setHost rest) h hm

end Sys2Proof.Machine
end

section
/-! DECODE_CAL as a bijection on the bytes it uses (R106): the blocks that give a calibration, and when two pairs of blocks
decode alike. -/

namespace Sys2Proof.Machine

/-! ### Bytes and nibbles of a coefficient -/

theorem append_eq_append_iff {n m : Nat} {x x' : BitVec n} {y y' : BitVec m} :
    x ++ y = x' ++ y' ↔ x = x' ∧ y = y' := by
  refine ⟨fun h => ⟨?_, ?_⟩, fun ⟨hx, hy⟩ => by rw [hx, hy]⟩
  · simpa only [BitVec.extractLsb'_append_eq_left] using congrArg (BitVec.extractLsb' m n) h
  · simpa only [BitVec.extractLsb'_append_eq_right] using congrArg (BitVec.extractLsb' 0 m) h

/-- A byte is its two nibbles. -/
theorem eq_of_nibbles {x y : Byte} (hlow : x.extractLsb' 0 4 = y.extractLsb' 0 4)
    (hhigh : x.extractLsb' 4 4 = y.extractLsb' 4 4) : x = y := by
  rw [← BitVec.extractLsb'_append_extractLsb' (w := 4) (len := 4) (x := x), hhigh, hlow,
    BitVec.extractLsb'_append_extractLsb']

theorem le16_eq_iff {b b' : List Byte} {k : Nat} :
    le16 b k = le16 b' k ↔ byteAt b (k + 1) = byteAt b' (k + 1) ∧ byteAt b k = byteAt b' k := append_eq_append_iff

/-! ### Every calibration is reached -/

/-- A 16-bit coefficient as its two bytes, low byte first (R58). -/
def leBytes (w : Word16) : List Byte := [w.extractLsb' 0 8, w.extractLsb' 8 8]

/-- Block 1 of a calibration, with 0 for the unused byte 24. -/
def calBlock1 (c : Calibration) : List Byte :=
  leBytes c.digT1 ++ leBytes c.digT2 ++ leBytes c.digT3 ++ leBytes c.digP1 ++ leBytes c.digP2 ++ leBytes c.digP3 ++
    leBytes c.digP4 ++ leBytes c.digP5 ++ leBytes c.digP6 ++ leBytes c.digP7 ++ leBytes c.digP8 ++ leBytes c.digP9 ++
    [0, c.digH1]

/-- The byte that the packed pair shares: `DIG_H5`'s low nibble above `DIG_H4`'s (R104). -/
def sharedByte (c : Calibration) : Byte := c.digH5.extractLsb' 0 4 ++ c.digH4.extractLsb' 0 4

/-- Block 2 of a calibration. -/
def calBlock2 (c : Calibration) : List Byte :=
  leBytes c.digH2 ++ [c.digH3, c.digH4.extractLsb' 4 8, sharedByte c, c.digH5.extractLsb' 4 8, c.digH6]

theorem sharedByte_nibbles (c : Calibration) :
    (sharedByte c).extractLsb' 4 4 = c.digH5.extractLsb' 0 4 ∧ (sharedByte c).extractLsb' 0 4 = c.digH4.extractLsb' 0 4 :=
  ⟨BitVec.extractLsb'_append_eq_left, BitVec.extractLsb'_append_eq_right⟩

theorem decodeCal_calBlocks (c : Calibration) : decodeCal (calBlock1 c) (calBlock2 c) = c := by
  obtain ⟨h5, h4⟩ := sharedByte_nibbles c
  have hword (w : Word16) : w.extractLsb' 8 8 ++ w.extractLsb' 0 8 = w := BitVec.extractLsb'_append_extractLsb'
  have hpacked (w : BitVec 12) : w.extractLsb' 4 8 ++ w.extractLsb' 0 4 = w := BitVec.extractLsb'_append_extractLsb'
  simp only [decodeCal, le16, byteAt, calBlock1, calBlock2, leBytes, List.cons_append, List.nil_append,
    List.getD_cons_zero, List.getD_cons_succ, h5, h4, hword, hpacked]

/-! ### Which blocks decode alike -/

/-- Two pairs of blocks decode alike exactly when they agree on each byte that is used. -/
theorem decodeCal_eq_iff {b1 b2 b1' b2' : List Byte} : decodeCal b1 b2 = decodeCal b1' b2' ↔
    (∀ k < 26, k ≠ 24 → byteAt b1 k = byteAt b1' k) ∧ ∀ k < 7, byteAt b2 k = byteAt b2' k := by
  constructor
  · intro h
    simp only [decodeCal, Calibration.mk.injEq, le16_eq_iff] at h
    obtain ⟨⟨_, _⟩, ⟨_, _⟩, ⟨_, _⟩, ⟨_, _⟩, ⟨_, _⟩, ⟨_, _⟩, ⟨_, _⟩, ⟨_, _⟩, ⟨_, _⟩, ⟨_, _⟩, ⟨_, _⟩, ⟨_, _⟩, _, ⟨_, _⟩, _,
      hH4, hH5, _⟩ := h
    obtain ⟨_, hlow⟩ := append_eq_append_iff.1 hH4
    obtain ⟨_, hhigh⟩ := append_eq_append_iff.1 hH5
    have hshared := eq_of_nibbles hlow hhigh
    refine ⟨fun k hk h24 => ?_, fun k hk => by interval_cases k <;> assumption⟩
    rcases (by omega : k < 24 ∨ k = 25) with hk | rfl
    · interval_cases k <;> assumption
    · assumption
  · rintro ⟨h1, h2⟩
    simp [decodeCal, le16, h1, h2]

/-- Two lists of one length are equal when their bytes are. -/
theorem eq_iff_byteAt {b b' : List Byte} {n : Nat} (h : b.length = n) (h' : b'.length = n) :
    b = b' ↔ ∀ k < n, byteAt b k = byteAt b' k := by
  refine ⟨fun e _ _ => by rw [e], fun hbytes => List.ext_getElem (h.trans h'.symm) fun k hk hk' => ?_⟩
  simpa [byteAt, hk, hk'] using hbytes k (h ▸ hk)

/-- Settles O18: a calibration is the decoding of its own blocks, and equal coefficients have equal bytes. -/
theorem decodeCalIsABijection : Obligations.DecodeCalIsABijection := by
  refine ⟨fun c => ⟨calBlock1 c, calBlock2 c, rfl, rfl, decodeCal_calBlocks c⟩, fun b1 b2 b1' b2' _ h2 _ h2' => ?_⟩
  rw [decodeCal_eq_iff, eq_iff_byteAt h2 h2']

end Sys2Proof.Machine
end

section
/-! A host program's run (R276, R279): the invariants hold at reset and every mapped interaction keeps them. -/

namespace Sys2Proof.Machine

/-- What holds all along a run: a well-formed configuration and the three invariants. -/
structure RunInv (s : State) : Prop where
  wf : s.cfg.wf = true
  status : StatusInv s
  bus : BusInv s
  snapshot : SnapshotInv s

theorem runInv_startOf {cfg : Config} (sensor : List Byte) (program : List HostMove) (hw : cfg.wf = true) :
    RunInv (startOf cfg sensor program) := by
  obtain ⟨hstatus, -, hsnapshot⟩ := resetMeetsTheInvariants
  exact ⟨hw, hstatus, rfl, hsnapshot⟩

theorem step_keeps_runInv {s : State} {m : HostMove} {rest : List HostMove} (h : RunInv s) (hh : s.host = m :: rest)
    (hm : moveMapped m = true) : ∃ t, step s = .next t ∧ t.host = rest ∧ RunInv t := by
  obtain ⟨t, hstep, hhost, hcfg, hstatus⟩ := mappedMovesAlwaysStep s m rest h.status h.wf hh hm
  exact ⟨t, hstep, hhost, hcfg ▸ h.wf, hstatus, stepKeepsTheBusReadOnly s t h.bus hstep,
    stepKeepsTheSnapshotInRange s t h.snapshot hstep⟩

/-- A program of mapped interactions runs to its end. -/
theorem run_mapped (program : List HostMove) (s : State) (h : RunInv s) (hh : s.host = program)
    (hm : program.all moveMapped = true) :
    ∃ t, Sys2Proof.core.run program.length s = .next t ∧ t.host = [] ∧ RunInv t := by
  induction program generalizing s with
  | nil => exact ⟨s, rfl, hh, h⟩
  | cons m rest ih =>
    obtain ⟨hfirst, hrest⟩ := Bool.and_eq_true_iff.1 hm
    obtain ⟨u, hstep, hhost, hu⟩ := step_keeps_runInv h hh hfirst
    obtain ⟨t, hrun, hend, ht⟩ := ih u hu hhost hrest
    exact ⟨t, (run_succ Sys2Proof.core rest.length s u hstep).trans hrun, hend, ht⟩

/-- Settles O52: the start meets the invariants, and the run keeps them to its end. -/
theorem hostProgramsRunToTheirEnd : Obligations.HostProgramsRunToTheirEnd := by
  intro cfg sensor program hw hmapped
  obtain ⟨t, hrun, hend, h⟩ := run_mapped program _ (runInv_startOf sensor program hw) rfl hmapped
  exact ⟨t, hrun, hend, h.status, h.bus, h.snapshot⟩

end Sys2Proof.Machine
end

section
/-! How the draw of a NaN enters an operation's result (R14, D40; log 5). -/

namespace Sys2Proof.Machine

/-- An operation whose first argument is its NaN draw: a NaN operand makes the draw the result, and for given operands the
draw is either the result or without effect. -/
structure DrawsNaN (op : F64 → F64 → F64 → F64) : Prop where
  of_nan : ∀ {nan a b}, isNaN a = true ∨ isNaN b = true → op nan a b = nan
  of_operands : ∀ a b, (∀ nan, op nan a b = nan) ∨ ∀ nan nan', op nan a b = op nan' a b

theorem drawsNaN_fadd : DrawsNaN fadd := ⟨fadd_of_isNaN, fun a b => by unfold fadd; split_ifs <;> simp⟩

theorem drawsNaN_fsub : DrawsNaN fsub := ⟨fsub_of_isNaN, fun a b => drawsNaN_fadd.of_operands a (fNegate b)⟩

theorem drawsNaN_fmul : DrawsNaN fmul := ⟨fmul_of_isNaN, fun a b => by unfold fmul; split_ifs <;> simp⟩

theorem drawsNaN_fdiv : DrawsNaN fdiv := ⟨fdiv_of_isNaN, fun a b => by unfold fdiv; split_ifs <;> simp⟩

/-- The same value, or two NaNs: what R14 fixes of a result (log 15). -/
def SameUpToNaN (x y : F64) : Prop := x = y ∨ (isNaN x = true ∧ isNaN y = true)

theorem SameUpToNaN.refl (x : F64) : SameUpToNaN x x := .inl rfl

namespace DrawsNaN

variable {op : F64 → F64 → F64 → F64} (hop : DrawsNaN op) {nan nan' a b a' b' : F64}

include hop

theorem isNaN_result (hn : isNaN nan = true) (h : isNaN a = true ∨ isNaN b = true) : isNaN (op nan a b) = true := by
  rw [hop.of_nan h, hn]

/-- Two draws and operands that agree up to NaNs give results that do. -/
theorem sameUpToNaN (hn : isNaN nan = true) (hn' : isNaN nan' = true) (ha : SameUpToNaN a a') (hb : SameUpToNaN b b') :
    SameUpToNaN (op nan a b) (op nan' a' b') := by
  rcases ha with rfl | ⟨ha, ha'⟩
  · rcases hb with rfl | ⟨hb, hb'⟩
    · rcases hop.of_operands a b with h | h
      · rw [h, h]; exact .inr ⟨hn, hn'⟩
      · exact .inl (h nan nan')
    · exact .inr ⟨hop.isNaN_result hn (.inr hb), hop.isNaN_result hn' (.inr hb')⟩
  · exact .inr ⟨hop.isNaN_result hn (.inl ha), hop.isNaN_result hn' (.inl ha')⟩

/-- A result that is no NaN does not depend on the draw. -/
theorem eq_of_isNaN_eq_false (hn : isNaN nan = true) (h : isNaN (op nan a b) = false) :
    op nan a b = op nan' a b := by
  rcases hop.of_operands a b with hdraw | hsame
  · rw [hdraw, hn] at h; cases h
  · exact hsame nan nan'

end DrawsNaN

/-- A quotient of numbers over a finite nonzero divisor does not depend on the draw. -/
theorem fdiv_draw_irrelevant {nan nan' a b : F64} (hn : isNaN nan = true) (ha : isNaN a = false)
    (hb : isFinite b = true) (hz : isZero b = false) : fdiv nan a b = fdiv nan' a b := by
  obtain ⟨hnb, hib⟩ := (isFinite_iff b).1 hb
  exact drawsNaN_fdiv.eq_of_isNaN_eq_false hn (isNaN_fdiv_eq_false ha hnb (by simp [hib]) (by simp [hz]))

end Sys2Proof.Machine
end

section
/-! The corner cases of the derived quantities: ALT (R193) and DEW (R196, R197). -/

namespace Sys2Proof.Machine

variable {a b z : F64}

/-! ### Operations with an infinity, a zero or a one -/

theorem isNaN_eq_false_of_isInf (h : isInf a = true) : isNaN a = false := by
  simp only [isInf, isNaN, beq_iff_eq, decide_eq_false_iff_not] at *; omega

theorem isZero_eq_false_of_isInf (h : isInf a = true) : isZero a = false := by
  rw [← Bool.not_eq_true]
  intro hz
  simp [isInf_eq_false_of_isZero hz] at h

theorem isZero_mkF64_zero (neg : Bool) : isZero (mkF64 neg 0) = true := by cases neg <;> decide

theorem isInf_mkF64_infMag (neg : Bool) : isInf (mkF64 neg infMag) = true := by cases neg <;> decide

/-- A finite value over an infinity is a zero. -/
theorem isZero_fdiv_of_isInf_right (nan : F64) (ha : isFinite a = true) (hb : isInf b = true) :
    isZero (fdiv nan a b) = true := by
  obtain ⟨hna, hia⟩ := (isFinite_iff a).1 ha
  simp [fdiv, hna, hia, isNaN_eq_false_of_isInf hb, hb, isZero_mkF64_zero]

/-- Zero over a nonzero number is a zero. -/
theorem isZero_fdiv_of_isZero_left (nan : F64) (ha : isZero a = true) (hb : isNaN b = false) (hz : isZero b = false) :
    isZero (fdiv nan a b) = true := by
  cases hib : isInf b
  · have hmag : fMag a = 0 := by simpa [isZero] using ha
    have hpos : 0 < gridMag (fMag b) := gridMag_pos (Nat.pos_of_ne_zero (by simpa [isZero] using hz))
    rw [fdiv_finite nan (isFinite_of_isZero ha) ((isFinite_iff b).2 ⟨hb, hib⟩) hz, hmag, gridMag_zero, Nat.zero_mul,
      roundMag_zero hpos]
    exact isZero_mkF64_zero _
  · exact isZero_fdiv_of_isInf_right nan (isFinite_of_isZero ha) hib

/-- A finite nonzero value times an infinity is an infinity. -/
theorem isInf_fmul_of_isInf_right (nan : F64) (ha : isFinite a = true) (hz : isZero a = false) (hb : isInf b = true) :
    isInf (fmul nan a b) = true := by
  obtain ⟨hna, hia⟩ := (isFinite_iff a).1 ha
  simp [fmul, hna, hia, isNaN_eq_false_of_isInf hb, hb, hz, isZero_eq_false_of_isInf hb, isInf_mkF64_infMag]

theorem isFinite_f64_one : isFinite (f64 1) = true := isFinite_i2f (by decide)

theorem fNeg_f64_one : fNeg (f64 1) = false := fNeg_i2f 1

theorem gridMag_f64_one : gridMag (fMag (f64 1)) = gridOne := (gridMag_i2f (by decide)).trans (Nat.one_mul _)

theorem fmul_one_right (nan : F64) (ha : isFinite a = true) : fmul nan a (f64 1) = a := by
  rw [fmul_finite nan ha isFinite_f64_one, gridMag_f64_one, fNeg_f64_one, Bool.bne_false,
    roundMag_exact (of_decide_eq_true ha).le gridOne_pos, mkF64_fMag]

/-- A finite nonzero value over itself is 1. -/
theorem fdiv_self (nan : F64) (ha : isFinite a = true) (hz : isZero a = false) : fdiv nan a a = f64 1 := by
  have hpos : 0 < gridMag (fMag a) := gridMag_pos (Nat.pos_of_ne_zero (by simpa [isZero] using hz))
  have hquotient : gridMag (fMag a) * gridOne = gridMag (fMag (f64 1)) * gridMag (fMag a) := by
    rw [gridMag_f64_one, Nat.mul_comm]
  rw [fdiv_finite nan ha ha hz, hquotient, roundMag_exact (of_decide_eq_true isFinite_f64_one).le hpos, bne_self_eq_false,
    ← fNeg_f64_one, mkF64_fMag]

/-- A finite value minus itself is `+0.0`. -/
theorem fsub_self (nan : F64) (ha : isFinite a = true) : fsub nan a a = 0#64 := by
  rw [fsub, fadd_finite nan ha ((isFinite_fNegate a).trans ha), fGrid_fNegate, add_neg_cancel, if_pos rfl, fNeg_fNegate,
    Bool.and_not_self]
  rfl

/-- Taking a zero from 1 leaves 1. -/
theorem one_fsub_isZero (nan : F64) (hz : isZero z = true) : fsub nan (f64 1) z = f64 1 :=
  fadd_isZero_right nan isFinite_f64_one (by simpa [isZero] using hz) fun _ => fNeg_f64_one

/-! ### The altitude -/

/-- The factor 44330 of R191. -/
theorem isFinite_f64_44330 : isFinite (f64 44330) = true := isFinite_i2f (by decide)

theorem fmul_44330_zero (nan : F64) : fmul nan (f64 44330) 0#64 = 0#64 := by
  rw [fmul_finite nan isFinite_f64_44330 (by decide), show fMag 0#64 = 0 by decide, gridMag_zero, Nat.mul_zero,
    roundMag_zero gridOne_pos, show fNeg (f64 44330) = false from fNeg_i2f 44330]
  rfl

section Altitude

variable (pow : F64 → F64 → F64) (nan : Nat → F64) {p p0 : F64}

/-- A quotient whose power is 0 is the altitude 44330. -/
theorem alt_of_zero_power (h : pow (fdiv (nan 0) p p0) (altExponent (nan 1)) = 0#64) : alt pow nan p p0 = f64 44330 := by
  rw [alt, h, one_fsub_isZero _ (by decide), fmul_one_right _ isFinite_f64_44330]

/-- A NaN power makes the altitude a NaN. -/
theorem isNaN_alt_of_isNaN_power (hn : ∀ k, isNaN (nan k) = true)
    (h : isNaN (pow (fdiv (nan 0) p p0) (altExponent (nan 1))) = true) : isNaN (alt pow nan p p0) = true :=
  drawsNaN_fmul.isNaN_result (hn 3) (.inr (drawsNaN_fsub.isNaN_result (hn 2) (.inr h)))

/-- The quotient of a non-negative number by a finite negative one is negative. -/
theorem fNeg_fdiv_of_signs (n : F64) (ha : isFinite a = true) (hb : isFinite b = true) (hz : isZero b = false)
    (hna : fNeg a = false) (hnb : fNeg b = true) : fNeg (fdiv n a b) = true := by
  rw [fdiv_finite n ha hb hz, fNeg_mkF64 _ _ (roundMag_lt _ _), hna, hnb]
  rfl

end Altitude

/-- Settles O39: the quotient is 1, a zero, a NaN or a negative number, and the named property of POW gives the power. -/
theorem altitudeCornerCases : Obligations.AltitudeCornerCases := by
  intro pow nan p p0 hn e
  refine ⟨fun hp hz hpow => ?equal, fun hnan hz hpow => ?sentinel, fun hp hinf hpow => ?infinite,
    fun hnan hpow => ?nan, fun hp hpos hp0 hz hneg hqz hqi hpow => ?negative⟩
  case equal =>
    have h1 : pow (f64 1) (altExponent (nan 1)) = f64 1 := hpow
    rw [alt, fdiv_self _ hp hz, h1, fsub_self _ isFinite_f64_one, fmul_44330_zero]
  case sentinel => exact alt_of_zero_power pow nan (hpow _ (isZero_fdiv_of_isZero_left _ (by decide) hnan hz))
  case infinite => exact alt_of_zero_power pow nan (hpow _ (isZero_fdiv_of_isInf_right _ hp hinf))
  case nan => exact isNaN_alt_of_isNaN_power pow nan hn (hpow _ (drawsNaN_fdiv.isNaN_result (hn 0) (.inr hnan)))
  case negative =>
    obtain ⟨hnp, -⟩ := (isFinite_iff p).1 hp
    obtain ⟨hnp0, hip0⟩ := (isFinite_iff p0).1 hp0
    have hqn : isNaN (fdiv (nan 0) p p0) = false := isNaN_fdiv_eq_false hnp hnp0 (by simp [hip0]) (by simp [hz])
    exact isNaN_alt_of_isNaN_power pow nan hn
      (hpow _ ((isFinite_iff _).2 ⟨hqn, hqi⟩) hqz (fNeg_fdiv_of_signs _ hp hp0 hz hpos hneg))

/-! ### The dew point -/

theorem isFinite_magnusB : isFinite magnusB = true := by decide +kernel

theorem isZero_magnusB : isZero magnusB = false := by decide +kernel

theorem isFinite_magnusC : isFinite magnusC = true := by decide +kernel

theorem isZero_magnusC : isZero magnusC = false := by decide +kernel

section DewPoint

variable (ln : F64 → F64) (nan : Nat → F64) {t rh g : F64}

theorem isNaN_dewValue_of_isNaN (hn : ∀ k, isNaN (nan k) = true) (hg : isNaN g = true) :
    isNaN (dewValue nan g) = true :=
  drawsNaN_fdiv.isNaN_result (hn 7) (.inl (drawsNaN_fmul.isNaN_result (hn 5) (.inr hg)))

/-- With an infinite `g` both terms of the last quotient are infinite. -/
theorem isNaN_dewValue_of_isInf (hn : ∀ k, isNaN (nan k) = true) (hg : isInf g = true) :
    isNaN (dewValue nan g) = true := by
  have hnum : isInf (fmul (nan 5) magnusC g) = true := isInf_fmul_of_isInf_right _ isFinite_magnusC isZero_magnusC hg
  have hden : fsub (nan 6) magnusB g = fNegate g := fadd_isInf_right _ isFinite_magnusB ((isInf_fNegate g).trans hg)
  rw [dewValue, hden, fdiv_of_isInf hnum ((isInf_fNegate g).trans hg)]
  exact hn 7

theorem isNaN_dewGamma_of_isNaN (hn : ∀ k, isNaN (nan k) = true) (ht : isNaN t = true) :
    isNaN (dewGamma ln nan t rh) = true :=
  have hproduct := drawsNaN_fmul.isNaN_result (a := magnusB) (hn 1) (.inr ht)
  drawsNaN_fadd.isNaN_result (hn 4) (.inr (drawsNaN_fdiv.isNaN_result (hn 3) (.inl hproduct)))

/-- An infinite temperature makes both terms of the inner quotient infinite. -/
theorem isNaN_dewGamma_of_isInf (hn : ∀ k, isNaN (nan k) = true) (ht : isInf t = true) :
    isNaN (dewGamma ln nan t rh) = true := by
  have hnum : isInf (fmul (nan 1) magnusB t) = true := isInf_fmul_of_isInf_right _ isFinite_magnusB isZero_magnusB ht
  have hden : fadd (nan 2) magnusC t = t := fadd_isInf_right _ isFinite_magnusC ht
  refine drawsNaN_fadd.isNaN_result (hn 4) (.inr ?_)
  rw [hden, fdiv_of_isInf hnum ht]
  exact hn 3

/-- `T = -c` of R197. -/
theorem f64_pole_eq_fNegate_magnusC : f64 (-24312) 100 = fNegate magnusC := by decide +kernel

/-- At `T = -c` the inner quotient is a finite nonzero value over a zero. -/
theorem isInf_dewGamma_at_pole (hln : isFinite (ln (fdiv (nan 0) rh (f64 100))) = true) :
    isInf (dewGamma ln nan (fNegate magnusC) rh) = true := by
  have hfin : isFinite (fNegate magnusC) = true := (isFinite_fNegate _).trans isFinite_magnusC
  have hden : isZero (fadd (nan 2) magnusC (fNegate magnusC)) = true := by
    have hdifference := fsub_self (nan 2) isFinite_magnusC
    rw [fsub] at hdifference
    rw [hdifference]
    decide
  obtain ⟨hfinite, hnonzero⟩ : isFinite (fmul (nan 1) magnusB (fNegate magnusC)) = true ∧
      isZero (fmul (nan 1) magnusB (fNegate magnusC)) = false := by
    rw [fmul_finite _ isFinite_magnusB hfin]
    decide +kernel
  have hquotient := fdiv_isZero_right (nan 3) hfinite (isFinite_of_isZero hden) hnonzero hden
  rw [dewGamma, hquotient, fadd_isInf_right _ hln (isInf_mkF64_infMag _)]
  exact isInf_mkF64_infMag _

/-- For a nonzero humidity a NaN of the formula is DEW's value, and it is not reported unavailable. -/
theorem isNaN_dew_of_isNaN_dewValue (sentinel : F64) (hz : isZero rh = false)
    (h : isNaN (dewValue nan (dewGamma ln nan t rh)) = true) :
    isNaN (dew ln sentinel nan t rh).1 = true ∧ (dew ln sentinel nan t rh).2 = false := by
  simp only [dew_of_nonzero ln sentinel nan t hz, h, and_self]

end DewPoint

/-- Settles O40: the zero humidity is DEW's first case; a NaN or infinite temperature makes `g` a NaN, and the pole makes
it infinite. -/
theorem dewPointCornerCases : Obligations.DewPointCornerCases := by
  intro ln sentinel nan t rh hn
  refine ⟨fun hz => dew_of_isZero ln sentinel nan t ((isZero_iff rh).2 hz), fun hz ht => ?special,
    fun hz ht hln => ?pole⟩
  case special =>
    have hgamma : isNaN (dewGamma ln nan t rh) = true :=
      ht.elim (isNaN_dewGamma_of_isNaN ln nan hn) (isNaN_dewGamma_of_isInf ln nan hn)
    exact isNaN_dew_of_isNaN_dewValue ln nan sentinel hz (isNaN_dewValue_of_isNaN nan hn hgamma)
  case pole =>
    have hgamma := isInf_dewGamma_at_pole ln nan hln
    rw [← f64_pole_eq_fNegate_magnusC, ← ht] at hgamma
    exact isNaN_dew_of_isNaN_dewValue ln nan sentinel hz (isNaN_dewValue_of_isInf nan hn hgamma)

end Sys2Proof.Machine
end

section
/-! An accessor executed again (R219): what it answers depends on the snapshot, ARG and the sentinel up to NaN draws, and
no interaction but a reset or a POLL changes the snapshot. -/

namespace Sys2Proof.Machine

variable {s t u : State} {i : Instr} {m : HostMove}

/-! ### What an accessor answers -/

/-- The value an accessor writes to RESULT, from the snapshot, ARG, the sentinel and the NaN draws. -/
def accessorValue (sentinel : F64) (nan : Nat → F64) (m : Snapshot) (arg : Word64) : Instr → Word64
  | .getTempC => m.tempC
  | .getTempF => toF nan m.tempC
  | .getHum => m.hum
  | .getPress => m.pressPa
  | .getAlt => alt Config.POW nan m.pressPa arg
  | .getDewPt => (dew Config.LN sentinel nan m.tempC m.hum).1
  | .begin | .setTempCal | .poll | .getCal => 0

/-- An accessor faults without a snapshot (R245), and GETALT on a zero operand (R246). -/
def AccessorFaults (i : Instr) (s : State) : Prop :=
  sampleValid s.status = false ∨ (i = .getAlt ∧ isZero s.arg = true)

/-- An accessor but GETALT is its gate and one state that holds its value. -/
theorem exec_eq_withSnapshot_value (ha : isAccessor i = true) (hi : i ≠ .getAlt) :
    ∃ k : Snapshot → State, exec i s = withSnapshot i s (fun m => .next (k m)) ∧
      ∀ m, (k m).result = accessorValue s.cfg.dewSentinel s.nans m s.arg i := by
  cases i with
  | getTempC | getTempF | getHum | getPress | getDewPt => exact ⟨_, rfl, fun _ => rfl⟩
  | getAlt => exact absurd rfl hi
  | begin | setTempCal | poll | getCal => cases ha

/-- Everything an accessor can do when it answers a next state. -/
theorem exec_accessor_next (ha : isAccessor i = true) (h : exec i s = .next t) :
    (AccessorFaults i s ∧ ∃ c, t = raiseFault c i.opcode s) ∨
    (¬AccessorFaults i s ∧ ∃ m, s.snap = some m ∧
      t.result = accessorValue s.cfg.dewSentinel s.nans m s.arg i) := by
  by_cases hi : i = .getAlt
  · subst hi
    obtain ⟨hv, rfl⟩ | ⟨m, -, -, hz, rfl⟩ | ⟨m, hv, hm, hz, rfl⟩ := execGetAlt_next h
    · exact .inl ⟨.inl hv, _, rfl⟩
    · exact .inl ⟨.inr ⟨rfl, (feq_zero s.arg).symm.trans hz⟩, _, rfl⟩
    · have hnonzero : isZero s.arg = false := (feq_zero s.arg).symm.trans hz
      exact .inr ⟨by simp [AccessorFaults, hv, hnonzero], m, hm, by
        simp [accessorValue, bits64, floatOperand, fromBits64]⟩
  · obtain ⟨k, hk, hvalue⟩ := exec_eq_withSnapshot_value (s := s) ha hi
    rw [hk] at h
    obtain ⟨hv, rfl⟩ | ⟨m, hv, hm, rfl⟩ := withSnapshot_next h
    · exact .inl ⟨.inl hv, _, rfl⟩
    · exact .inr ⟨by simp [AccessorFaults, hv, hi], m, hm, hvalue m⟩

/-! ### Two draws, one value -/

/-- The exponent of R191 is a number, so no draw enters it. -/
theorem altExponent_draw_irrelevant {n n' : F64} (hn : isNaN n = true) : altExponent n = altExponent n' :=
  fdiv_draw_irrelevant hn (isNaN_eq_false_of_finite isFinite_f64_one) (by decide +kernel) (by decide +kernel)

section Draws

variable {nan nan' : Nat → F64} (hn : ∀ k, isNaN (nan k) = true) (hn' : ∀ k, isNaN (nan' k) = true)

include hn hn'

theorem sameUpToNaN_toF (c : F64) : SameUpToNaN (toF nan c) (toF nan' c) := by
  have hproduct := drawsNaN_fmul.sameUpToNaN (hn 0) (hn' 0) (.refl c) (.refl (f64 9))
  have hquotient := drawsNaN_fdiv.sameUpToNaN (hn 1) (hn' 1) hproduct (.refl (f64 5))
  exact drawsNaN_fadd.sameUpToNaN (hn 2) (hn' 2) hquotient (.refl (f64 32))

/-- Both operands of POW are numbers, so POW is applied to the same. -/
theorem sameUpToNaN_alt (pow : F64 → F64 → F64) {p p0 : F64} (hp : isFinite p = true) (hp0 : isNaN p0 = false)
    (hz : isZero p0 = false) : SameUpToNaN (alt pow nan p p0) (alt pow nan' p p0) := by
  obtain ⟨hnp, hip⟩ := (isFinite_iff p).1 hp
  have hquotient : fdiv (nan 0) p p0 = fdiv (nan' 0) p p0 :=
    drawsNaN_fdiv.eq_of_isNaN_eq_false (hn 0) (isNaN_fdiv_eq_false hnp hp0 (by simp [hip]) (by simp [hz]))
  rw [alt, alt, hquotient, altExponent_draw_irrelevant (n' := nan' 1) (hn 1)]
  exact drawsNaN_fmul.sameUpToNaN (hn 3) (hn' 3) (.refl _)
    (drawsNaN_fsub.sameUpToNaN (hn 2) (hn' 2) (.refl _) (.refl _))

theorem sameUpToNaN_dewGamma (ln : F64 → F64) (t : F64) {rh : F64} (hrh : isNaN rh = false) :
    SameUpToNaN (dewGamma ln nan t rh) (dewGamma ln nan' t rh) := by
  have hratio : fdiv (nan 0) rh (f64 100) = fdiv (nan' 0) rh (f64 100) :=
    fdiv_draw_irrelevant (hn 0) hrh (isFinite_i2f (by decide)) (isZero_i2f_eq_false (by decide) (by decide))
  have hproduct := drawsNaN_fmul.sameUpToNaN (hn 1) (hn' 1) (.refl magnusB) (.refl t)
  have hsum := drawsNaN_fadd.sameUpToNaN (hn 2) (hn' 2) (.refl magnusC) (.refl t)
  rw [dewGamma, dewGamma, hratio]
  exact drawsNaN_fadd.sameUpToNaN (hn 4) (hn' 4) (.refl _) (drawsNaN_fdiv.sameUpToNaN (hn 3) (hn' 3) hproduct hsum)

theorem sameUpToNaN_dew (ln : F64 → F64) (sentinel t : F64) {rh : F64} (hrh : isNaN rh = false) :
    SameUpToNaN (dew ln sentinel nan t rh).1 (dew ln sentinel nan' t rh).1 := by
  cases hz : isZero rh
  · have hgamma := sameUpToNaN_dewGamma hn hn' ln t hrh
    have hnum := drawsNaN_fmul.sameUpToNaN (hn 5) (hn' 5) (.refl magnusC) hgamma
    have hden := drawsNaN_fsub.sameUpToNaN (hn 6) (hn' 6) (.refl magnusB) hgamma
    simp only [dew_of_nonzero ln sentinel _ t hz]
    exact drawsNaN_fdiv.sameUpToNaN (hn 7) (hn' 7) hnum hden
  · rw [dew_of_isZero ln sentinel nan t hz, dew_of_isZero ln sentinel nan' t hz]
    exact .refl _

/-- For a snapshot in range an accessor's value is fixed up to the encoding of a NaN. -/
theorem sameUpToNaN_accessorValue (sentinel : F64) {m : Snapshot} {arg : Word64} (i : Instr)
    (hhum : inPercentRange m.hum = true) (hpress : isPressure m.pressPa = true)
    (harg : i = .getAlt → isNaN arg = false ∧ isZero arg = false) :
    SameUpToNaN (accessorValue sentinel nan m arg i) (accessorValue sentinel nan' m arg i) := by
  cases i with
  | getTempF => exact sameUpToNaN_toF hn hn' m.tempC
  | getAlt =>
    obtain ⟨hnan, hzero⟩ := harg rfl
    have hfinite : isFinite m.pressPa = true := by simp [isPressure] at hpress; simp [hpress]
    exact sameUpToNaN_alt hn hn' Config.POW hfinite hnan hzero
  | getDewPt =>
    have hnum : isNaN m.hum = false := by simp [inPercentRange] at hhum; simp [hhum]
    exact sameUpToNaN_dew hn hn' Config.LN sentinel m.tempC hnum
  | begin | setTempCal | poll | getTempC | getHum | getPress | getCal => exact .refl _

end Draws

/-! ### What stands between the two executions -/

/-- What the interactions between two executions keep of what an accessor reads; once a fault is recorded, RESULT too. -/
structure KeepsReadings (s t : State) : Prop where
  snap : t.snap = s.snap
  sampled : sampleValid t.status = sampleValid s.status
  cfg : t.cfg = s.cfg
  faulted : faultBit s.status = true → faultBit t.status = true ∧ t.result = s.result

theorem KeepsReadings.refl (s : State) : KeepsReadings s s := ⟨rfl, rfl, rfl, fun hf => ⟨hf, rfl⟩⟩

theorem KeepsReadings.trans (h : KeepsReadings s t) (h' : KeepsReadings t u) : KeepsReadings s u :=
  ⟨h'.snap.trans h.snap, h'.sampled.trans h.sampled, h'.cfg.trans h.cfg, fun hf => by
    obtain ⟨hft, hresult⟩ := h.faulted hf
    obtain ⟨hfu, hresult'⟩ := h'.faulted hft
    exact ⟨hfu, hresult'.trans hresult⟩⟩

theorem keepsReadings_setHost (s : State) (moves : List HostMove) : KeepsReadings s (s.setHost moves) :=
  ⟨rfl, rfl, rfl, fun hf => ⟨hf, rfl⟩⟩

theorem keepsReadings_raiseFault (c : FaultCode) (op : Byte) (s : State) : KeepsReadings s (raiseFault c op s) :=
  ⟨by simp, by simp, by simp, fun _ => by simp⟩

/-- No command but POLL writes what an accessor reads. -/
theorem exec_keeps_readings (hi : i ≠ .poll) (h : exec i s = .next t) :
    t.snap = s.snap ∧ sampleValid t.status = sampleValid s.status ∧ t.cfg = s.cfg := by
  obtain ⟨-, hcfg, -⟩ := commandsLeaveTheHostSide i s t h
  obtain ⟨-, hsnap, -, -, -, -, hbits, -⟩ := eachRegisterHasItsWriter i s t h
  obtain ⟨hsampled, -⟩ := hbits hi
  exact ⟨hsnap hi, hsampled, hcfg⟩

theorem keepsReadings_exec (hi : i ≠ .poll) (hf : faultBit s.status = false) (h : exec i s = .next t) :
    KeepsReadings s t := by
  obtain ⟨hsnap, hsampled, hcfg⟩ := exec_keeps_readings hi h
  exact ⟨hsnap, hsampled, hcfg, fun hf' => by simp [hf] at hf'⟩

theorem portAt_eq_cmd {offset width : Nat} (h : portAt offset width = some .cmd) : offset = 0x00 ∧ width = 32 := by
  unfold portAt at h
  split at h <;> cases h
  exact ⟨rfl, rfl⟩

/-- The issue of a word but POLL's. -/
theorem keepsReadings_issue {w : Word32} (hw : w ≠ encode .poll) (h : issue w s = .next t) : KeepsReadings s t := by
  obtain ⟨-, e⟩ | ⟨i, hf, hd, e⟩ | ⟨_, -, -, e⟩ := issue_cases w s <;> rw [e] at h
  · cases h; exact .refl s
  · exact keepsReadings_exec (fun hi => hw (hi ▸ eq_encode_of_decode_ok hd)) hf h
  · cases h; exact keepsReadings_raiseFault _ _ s

theorem keepsReadings_hostMove (hk : keepsSnapshot m = true) (h : hostMove m s = .next t) : KeepsReadings s t := by
  cases m with
  | reset => cases hk
  | read offset width =>
    simp only [hostMove] at h
    split at h <;> cases h
    exact ⟨rfl, rfl, rfl, fun hf => ⟨hf, rfl⟩⟩
  | write offset width x =>
    cases hp : portAt offset width with
    | none => simp [hostMove, hp] at h
    | some p =>
      simp only [hostMove, hp] at h
      cases p with
      | cmd =>
        obtain ⟨rfl, rfl⟩ := portAt_eq_cmd hp
        exact keepsReadings_issue (by simpa [keepsSnapshot] using hk) h
      | arg | result | status => cases h; exact ⟨rfl, rfl, rfl, fun hf => ⟨hf, rfl⟩⟩

/-- A run of one more step that answers a next state. -/
theorem run_succ_next {n : Nat} (h : Sys2Proof.core.run (n + 1) s = .next u) :
    ∃ t, step s = .next t ∧ Sys2Proof.core.run n t = .next u := by
  cases hs : step s with
  | next t => exact ⟨t, rfl, (run_succ Sys2Proof.core n s t hs).symm.trans h⟩
  | fault r | refused r =>
    have hstep : Sys2Proof.core.step s = _ := hs
    simp [Host.Core.run, hstep] at h

theorem keepsReadings_run (between : List HostMove) {rest : List HostMove} (hh : s.host = between ++ rest)
    (hk : between.all keepsSnapshot = true) (h : Sys2Proof.core.run between.length s = .next u) :
    KeepsReadings s u := by
  induction between generalizing s with
  | nil => cases h; exact .refl _
  | cons m between ih =>
    obtain ⟨hm, hrest⟩ := Bool.and_eq_true_iff.1 hk
    obtain ⟨t, hstep, hrun⟩ := run_succ_next h
    obtain ⟨hw, -⟩ := step_next hstep
    rw [step_move hw hh] at hstep
    obtain ⟨hhost, -⟩ := hostMove_frame hstep
    have hfirst := keepsReadings_hostMove hm hstep
    exact ((keepsReadings_setHost _ _).trans hfirst).trans (ih hhost hrest hrun)

/-- Settles O41: the second execution meets the same gate, operand and snapshot. A fault of the first stays recorded, so
RESULT stays; without one both values are the accessor's, which differ at most in the encoding of a NaN. -/
theorem accessorsAreIdempotent : Obligations.AccessorsAreIdempotent := by
  intro s t u v i x between rest ha hinv hnan hfirst hk hrun harg hsecond
  have hpoll : i ≠ .poll := fun hi => by rw [hi] at ha; cases ha
  obtain ⟨htsnap, htsampled, htcfg⟩ := exec_keeps_readings hpoll hfirst
  obtain ⟨husnap, husampled, hucfg, hufaulted⟩ := keepsReadings_run between rfl hk hrun
  have hsampled : sampleValid u.status = sampleValid s.status := husampled.trans htsampled
  have hfaults : AccessorFaults i u ↔ AccessorFaults i s := by rw [AccessorFaults, hsampled, harg, AccessorFaults]
  obtain ⟨hfault, c, rfl⟩ | ⟨hvalue, m, hm, htresult⟩ := exec_accessor_next ha hfirst
  · obtain ⟨-, d, rfl⟩ | ⟨hno, -⟩ := exec_accessor_next ha hsecond
    · obtain ⟨-, hresult⟩ := hufaulted (raiseFault_faultBit c i.opcode s)
      exact .inl ((raiseFault_result d i.opcode u).trans hresult)
    · exact absurd (hfaults.2 hfault) hno
  · obtain ⟨hfault, -⟩ | ⟨-, m', hm', hvresult⟩ := exec_accessor_next ha hsecond
    · exact absurd (hfaults.1 hfault) hvalue
    · obtain rfl : m' = m := Option.some.inj (hm'.symm.trans ((husnap.trans htsnap).trans hm))
      obtain ⟨hhum, hpress, -⟩ := hinv m' hm
      have hcfg : u.cfg = s.cfg := hucfg.trans htcfg
      have hoperand (hi : i = .getAlt) : isNaN s.arg = false ∧ isZero s.arg = false :=
        ⟨hnan hi, Bool.eq_false_of_not_eq_true fun hz => hvalue (.inr ⟨hi, hz⟩)⟩
      rw [hvresult, htresult, hcfg, harg]
      exact sameUpToNaN_accessorValue (isNaN_nans u) (isNaN_nans s) s.cfg.dewSentinel i hhum hpress hoperand

end Sys2Proof.Machine
end
